-- ==== Sys2Proof/Word.lean ====
section
/-! DEFINITION. The words of the block: bytes, bus words, transaction keys, CRU bit addresses, and the plain data
its stores are made of. -/

namespace Sys2Proof

/-- A byte of a store or of an 8-bit device. -/
abbrev Byte := BitVec 8

/-- A 16-bit bus word or memory address (00_scope.md R8). -/
abbrev Word := BitVec 16

/-- A 19-bit transaction key (30_encoding.md R90). -/
abbrev Key := BitVec 19

/-- A CRU bit address (42_cru.md R180). -/
abbrev CruBit := BitVec 12

/-- A byte store: its nonzero bytes by index, indices strictly rising. An index that is not listed holds 0x00, the
value every store of the block starts from (10_state.md R51). -/
abbrev Memory := List Host.Cell

/-- The lines of the CRU bit array that hold 1, strictly rising (10_state.md R42). -/
abbrev CruLines := List Nat

end Sys2Proof
end

