-- ==== Sys2Proof/Config.lean ====
section
/-! DEFINITION. What an implementation fixes (the parameters of 00_scope.md R9) and the free values: the answers of
external devices and the bits the spec lets an oracle draw. -/

namespace Sys2Proof

/-- Where a bank-select write takes its index from (P_BANK_SELECT_SOURCE, 92_eei_decisions.md D9). -/
inductive BankSource where
  | address | data
  deriving DecidableEq, Repr

/-- What a GROM address-port read leaves in the cursor (P_GROM_ADDR_READ_FOLD, 92_eei_decisions.md D40). -/
inductive GromFold where
  | shift | dup | zext
  deriving DecidableEq, Repr

/-- What a timer-mode CRU read of bits 1 to 14 returns (P_TIMER_READ, 92_eei_decisions.md D31). -/
inductive TimerRead where
  | clock | dec | draw
  deriving DecidableEq, Repr

/-- What a CRU read of a bit with no listed meaning returns (P_UNLISTED_CRU_READ, 92_eei_decisions.md D31). -/
inductive UnlistedCruRead where
  | stored | zero | draw
  deriving DecidableEq, Repr

/-- The implementation parameters of 00_scope.md R9. -/
structure Params where
  /-- P_AMS_PAGES: 4 KiB pages of the AMS store. -/
  amsPages : Nat
  /-- P_WAIT_DEFAULT: charge of a timed transaction other than a GROM-range write. -/
  waitDefault : Nat
  /-- P_WAIT_GROM_WRITE: charge of a timed write in [0x9800,0xA000). -/
  waitGromWrite : Nat
  /-- P_CART_RAM_BANKS: 4 KiB cartridge RAM banks when RAM is paged. -/
  cartRamBanks : Nat
  /-- P_CART_RAM_SEL: lowest address whose write selects the RAM bank when RAM is paged. -/
  cartRamSel : Word
  /-- P_BANK_SELECT_SOURCE. -/
  bankSelectSource : BankSource
  /-- P_GROM_ADDR_READ_FOLD. -/
  gromAddrReadFold : GromFold
  /-- P_TIMER_READ. -/
  timerRead : TimerRead
  /-- P_UNLISTED_CRU_READ. -/
  unlistedCruRead : UnlistedCruRead
  /-- P_DSR_DISABLE_ANY. -/
  dsrDisableAny : Bool
  deriving DecidableEq, Repr

/-- The values 00_scope.md R9 lists, with the runner defaults of the OPEN parameters (DESIGN CHOICE, log 4). -/
def Params.default : Params where
  amsPages := 256
  waitDefault := 4
  waitGromWrite := 23
  cartRamBanks := 2
  cartRamSel := 0x6800
  bankSelectSource := .address
  gromAddrReadFold := .shift
  timerRead := .clock
  unlistedCruRead := .stored
  dsrDisableAny := false

/-- The constraints 00_scope.md R9 puts on the parameters. -/
abbrev Params.wf (p : Params) : Prop :=
  2 ^ Nat.log2 p.amsPages = p.amsPages ∧ 16 ≤ p.amsPages ∧
  2 ^ Nat.log2 p.cartRamBanks = p.cartRamBanks ∧
  0x6000 ≤ p.cartRamSel.toNat ∧ p.cartRamSel.toNat < 0x7000

namespace Config

/-- Free value: the n-th answer drawn, when it is an answer of vdp.read_data (00_scope.md R7). -/
opaque vdpReadData : Nat → Byte

/-- Free value: an answer of vdp.read_status (00_scope.md R7). -/
opaque vdpReadStatus : Nat → Byte

/-- Free value: an answer of speech.read_speech_data (00_scope.md R7). -/
opaque speechReadData : Nat → Byte

/-- Free value: an answer of kbd.line(col, row) (00_scope.md R7). -/
opaque kbdLine : Nat → BitVec 3 → BitVec 3 → Bool

/-- Free value: an answer of tape.level(t) (00_scope.md R7). -/
opaque tapeLevel : Nat → Nat → Bool

/-- Free value: an oracle bit of P_TIMER_READ = DRAW or P_UNLISTED_CRU_READ = DRAW (42_cru.md R183, R187). -/
opaque drawBit : Nat → Bool

/-- Free value: the status text, of which the spec fixes only that it is a function of GADDR, ROM_BANK, RAM_BANK,
AMS_REG, AMS_MODE and AMS_ACC (43_host.md R225). -/
opaque statusText : Word → Nat → Nat → Vector Word 16 → Bool → Bool → String

end Config
end Sys2Proof
end

