-- ==== Sys2Proof/Syntax.lean ====
section
/-! DEFINITION. The transactions of the block: one constructor of `Instr` for each row of spec/opcode_table.json, the
data their operands are made of, and the undecoded transaction a caller issues. -/

namespace Sys2Proof

/-- The kind of a RESET (70_reset_and_hazards.md R260). -/
inductive ResetKind where
  | cold | warm
  deriving DecidableEq, Repr

/-- A byte list given by its length and its nonzero bytes: a cartridge or peripheral ROM image (10_state.md R25, R30),
or a store inside a snapshot. -/
structure Image where
  size  : Nat
  cells : Memory
  deriving DecidableEq, Repr

/-- The empty byte list. -/
def Image.empty : Image := ⟨0, []⟩

/-- An array of single bits inside a snapshot: how many, and the indices of those that are 1. -/
structure BitImage where
  width : Nat
  ones  : List Nat
  deriving DecidableEq, Repr

/-- A snapshot as the host holds it: every element of 10_state.md R22 to R48 by name, each of which may be missing or
out of range (43_host.md R218, R220). The encoding is the model's own (log 10). -/
structure Snapshot where
  ram32kEn  : Option Nat
  amsEn     : Option Nat
  gramEn    : Option Nat
  rom       : Option Image
  ram       : Option Image
  dsrImg    : Option (List Image)
  dsrSel    : Option Nat
  dsrEn     : Option Nat
  cartImg   : Option Image
  cartBanks : Option Nat
  cartInv   : Option Nat
  cartRam6  : Option Nat
  cartRam7  : Option Nat
  cartPaged : Option Nat
  romBank   : Option Nat
  ramBank   : Option Nat
  cartRam   : Option Image
  amsMem    : Option Image
  amsReg    : Option (List Nat)
  amsMode   : Option Nat
  amsAcc    : Option Nat
  grom      : Option (List Image)
  gpop      : Option (List Nat)
  gaddr     : Option Nat
  gphase    : Option Nat
  gpref     : Option (List Nat)
  cruBits   : Option BitImage
  tmode     : Option Nat
  clk       : Option Nat
  dec       : Option Int
  tint      : Option Nat
  vint      : Option Nat
  elapsed   : Option Nat
  deriving DecidableEq, Repr

/-- The snapshot with no element at all. -/
def Snapshot.absent : Snapshot where
  ram32kEn := none
  amsEn := none
  gramEn := none
  rom := none
  ram := none
  dsrImg := none
  dsrSel := none
  dsrEn := none
  cartImg := none
  cartBanks := none
  cartInv := none
  cartRam6 := none
  cartRam7 := none
  cartPaged := none
  romBank := none
  ramBank := none
  cartRam := none
  amsMem := none
  amsReg := none
  amsMode := none
  amsAcc := none
  grom := none
  gpop := none
  gaddr := none
  gphase := none
  gpref := none
  cruBits := none
  tmode := none
  clk := none
  dec := none
  tint := none
  vint := none
  elapsed := none

/-- The decoded transactions: one constructor for each row of spec/opcode_table.json, in the table's order. Memory
rows carry the address (A0 already forced to 0) and, if they write, the word; CRU rows carry the bit, where the row
has more than one, and the value written. -/
inductive Instr where
  | mrdRom (a : Word)
  | mrdLoram (a : Word)
  | mrdPeriph (a : Word)
  | mrdCart (a : Word)
  | mrdPad (a : Word)
  | mrdSound (a : Word)
  | mrdGap (a : Word)
  | mrdVdpData (a : Word)
  | mrdVdpStat (a : Word)
  | mrdVdpWp (a : Word)
  | mrdSpch (a : Word)
  | mrdSpchWp (a : Word)
  | mrdGrData (a : Word)
  | mrdGrAddr (a : Word)
  | mrdGrWp (a : Word)
  | mrdHiram (a : Word)
  | mwrRom (a d : Word)
  | mwrLoram (a d : Word)
  | mwrPeriph (a d : Word)
  | mwrCart (a d : Word)
  | mwrPad (a d : Word)
  | mwrSound (a d : Word)
  | mwrGap (a d : Word)
  | mwrVdpRp (a d : Word)
  | mwrVdpData (a d : Word)
  | mwrVdpAddr (a d : Word)
  | mwrSpchRp (a d : Word)
  | mwrSpch (a d : Word)
  | mwrGrRp (a d : Word)
  | mwrGrData (a d : Word)
  | mwrGrAddr (a d : Word)
  | mwrHiram (a d : Word)
  | crdMode
  | crdTInt
  | crdTClk (bit : CruBit)
  | crdNVdp
  | crdNKbd (bit : CruBit)
  | crdTapeIn
  | crdStored (bit : CruBit)
  | cwrMode (v : Bool)
  | cwrTClk (bit : CruBit) (v : Bool)
  | cwrTB15 (v : Bool)
  | cwrTExit (bit : CruBit) (v : Bool)
  | cwrNAck (v : Bool)
  | cwrNMotor (v : Bool)
  | cwrNTapeOut (v : Bool)
  | cwrDsr (bit : CruBit) (v : Bool)
  | cwrNStore (bit : CruBit) (v : Bool)
  | tick (delta : Nat)
  | vdpInt (level : Bool)
  | reset (kind : ResetKind)
  | loadRam (a : Word) (bytes : List Byte)
  | loadGrom (base : BitVec 4) (offset : Word) (bytes : List Byte)
  | loadCart (bytes : List Byte) (inv ram6 ram7 paged : Bool)
  | loadDsr (slot : BitVec 4) (bytes : List Byte)
  | setRam32k (v : Bool)
  | setAms (v : Bool)
  | setGram (v : Bool)
  | getState
  | restoreState (snap : Snapshot)
  | dbgRdb (a : Word)
  | dbgRdw (a : Word)
  | status
  deriving DecidableEq, Repr

/-- A transaction as a caller issues it: the 19-bit key, and beside it the operands (30_encoding.md R90, R99). `words`
holds the scalar operands in the order R99 names them (D of an MWR and v of a CWR first); an absent one is 0. `bytes`
is the byte list of a loader, `snap` the snapshot of RESTORE_STATE (log 6). -/
structure Txn where
  key   : Key
  words : List Nat
  bytes : List Nat
  snap  : Snapshot
  deriving DecidableEq, Repr

/-- The regions of the memory space (20_memory.md R64). -/
inductive Region where
  | rom | loram | periph | cart | pad | sound | gap | vdp | speech | grom | hiram
  deriving DecidableEq, Repr

end Sys2Proof
end

