-- ==== Sys2Proof/Machine/State.lean ====
section
/-! DEFINITION. The state of the block, unit by unit (00_scope.md R2, 10_state.md R22 to R48), the replies it gives, and
the state after power-on (10_state.md R51, 70_reset_and_hazards.md R262, R263). -/

namespace Sys2Proof.Machine

/-- GPHASE, the address-latch counter: `two` means the next address-port write is the first of a pair, `one` that it
is the second (10_state.md R40). -/
inductive GromPhase where
  | one | two
  deriving DecidableEq, Repr

/-- DEC, the address-space decoder: settings, plain stores and the peripheral ROM selection. -/
structure Decoder where
  /-- RAM32K_EN (R22). -/
  ram32kEn : Bool
  /-- AMS_EN (R22). -/
  amsEn    : Bool
  /-- GRAM_EN (R22). -/
  gramEn   : Bool
  /-- ROM, 8192 bytes (R23). -/
  rom      : Memory
  /-- RAM, 65536 bytes indexed by CPU address; [0x8300,0x8400) is the scratchpad (R24). -/
  ram      : Memory
  /-- DSR_IMG[0..15] (R30). -/
  dsrImg   : Vector Image 16
  /-- DSR_SEL (R31). -/
  dsrSel   : BitVec 4
  /-- DSR_EN (R31). -/
  dsrEn    : Bool
  deriving DecidableEq, Repr

/-- BSC, the bank-switch controller of the cartridge window. -/
structure BankSwitch where
  /-- CART_IMG (R25). -/
  cartImg   : Image
  /-- CART_RAM (R26). -/
  cartRam   : Memory
  /-- CART_INV (R27). -/
  cartInv   : Bool
  /-- CART_RAM6 (R27). -/
  cartRam6  : Bool
  /-- CART_RAM7 (R27). -/
  cartRam7  : Bool
  /-- CART_PAGED (R27). -/
  cartPaged : Bool
  /-- ROM_BANK (R28). -/
  romBank   : Nat
  /-- RAM_BANK (R29). -/
  ramBank   : Nat
  deriving DecidableEq, Repr

/-- AMS, the page-mapping unit. -/
structure PageMapper where
  /-- AMS_MEM, P_AMS_PAGES * 4096 bytes (R32). -/
  mem  : Memory
  /-- AMS_REG[0..15] (R33). -/
  reg  : Vector Word 16
  /-- AMS_MODE: 0 transparent, 1 mapping (R34). -/
  mode : Bool
  /-- AMS_ACC (R35). -/
  acc  : Bool
  deriving DecidableEq, Repr

/-- CRU, the bit-addressable I/O controller and its interval timer. -/
structure CruUnit where
  /-- CRUBITS[0..4095] (R42). -/
  bits    : CruLines
  /-- TMODE: 0 normal, 1 timer (R43). -/
  tmode   : Bool
  /-- CLK (R44). -/
  clk     : BitVec 14
  /-- DEC, the live decrementer (R45). -/
  dec     : Int
  /-- TINT (R46). -/
  tint    : Bool
  /-- VINT (R47). -/
  vint    : Bool
  /-- ELAPSED (R48). -/
  elapsed : Nat
  deriving DecidableEq, Repr

/-- GSQ, the GROM prefetch latch and sequencer. -/
structure GromSeq where
  /-- GROM[0..15], 65536 bytes each (R37). -/
  grom   : Vector Memory 16
  /-- GPOP[0..15] (R38). -/
  gpop   : Vector Bool 16
  /-- GADDR (R39). -/
  gaddr  : Word
  /-- GPHASE (R40). -/
  gphase : GromPhase
  /-- GPREF[0..15] (R41). -/
  gpref  : Vector Byte 16
  deriving DecidableEq, Repr

/-- The five units of the block (00_scope.md R2): every state element of 10_state.md R22 to R48. -/
structure Block where
  decoder : Decoder
  bsc     : BankSwitch
  ams     : PageMapper
  cru     : CruUnit
  gsq     : GromSeq
  deriving DecidableEq, Repr

/-- The two host-visible errors (60_exceptions.md R240). -/
inductive HostError where
  /-- Code 1: a loader got an empty byte list. -/
  | eEmpty
  /-- Code 2: RESTORE_STATE got a snapshot that is not well formed. -/
  | eSnapshot
  deriving DecidableEq, Repr

/-- A call the block makes into an external device, with its arguments (00_scope.md R7). -/
inductive DeviceCall where
  | vdpReadData
  | vdpReadStatus
  | vdpWriteData (b : Byte)
  | vdpWriteAddress (b : Byte)
  | soundWriteData (b : Byte)
  | speechReadData
  | speechWriteData (b : Byte)
  | kbdLine (col row : BitVec 3)
  | tapeLevel (t : Nat)
  | tapeMotor (v : Bool)
  | tapeOut (v : Bool)
  deriving DecidableEq, Repr

/-- What a transaction returns to its requester (30_encoding.md R90, R99). -/
inductive Value where
  /-- The transaction returns nothing. -/
  | nothing
  /-- A host operation that may fail succeeded. -/
  | ok
  | word (d : Word)
  | byte (b : Byte)
  | bit (v : Bool)
  | snapshot (S : Snapshot)
  | text (t : String)
  deriving DecidableEq, Repr

/-- Everything one transaction shows to the outside (70_reset_and_hazards.md R283). -/
structure Reply where
  /-- The value returned. -/
  value  : Value
  /-- The wait-state cycles charged (40_bus_memory.md R110); 0 for a transaction that charges nothing. -/
  cycles : Nat
  /-- The device calls, in order. -/
  calls  : List DeviceCall
  /-- The HostError raised, if one was. -/
  error  : Option HostError
  deriving DecidableEq, Repr

/-- The reply before any transaction. -/
def Reply.none : Reply := ⟨.nothing, 0, [], .none⟩

/-- The whole machine: the block, and the model's own fields (INVENTORY.md, State). -/
structure State extends Block where
  /-- The parameters of 00_scope.md R9; no step changes them. -/
  params  : Params
  /-- Transactions issued and not yet performed, oldest first. -/
  pending : List Txn
  /-- The outputs of the last transaction performed. -/
  reply   : Reply
  /-- How many free values have been drawn. -/
  draws   : Nat
  deriving DecidableEq, Repr

/-- Why the machine stops with a fault. There is no constructor: no transaction raises an exception, a fault or a bus
error (60_exceptions.md R241), and a HostError is an answer to the host after which the block goes on (R240). Safe. -/
inductive Fault where
  deriving DecidableEq, Repr

/-- Why a transaction is refused (60_exceptions.md R242). -/
inductive Refusal where
  /-- The dispatcher has no meaning for a row. No row is left without one, so nothing raises this. Safe. -/
  | notModelled (mnemonic : String)
  /-- A sideband key whose id is 15 to 63, raised by the decoder: no such transaction exists (R99, R242). Safe. -/
  | unusedSidebandId (id : Nat)
  /-- A sideband operand outside the type R99 gives the row, raised by the decoder (R242). Safe. -/
  | operandOutOfType (mnemonic : String)
  deriving DecidableEq, Repr

/-- The three outcomes of a transaction. -/
abbrev Step := Host.Outcome State Fault Refusal

/-- The state after power-on with the construction inputs of log 5: empty ROM and GROM images, RAM32K_EN = 1, AMS_EN =
0, GRAM_EN = 0, the parameters at their listed values. Every other element is at its cold-reset value (R51). -/
def State.reset : State where
  decoder :=
    { ram32kEn := true, amsEn := false, gramEn := false, rom := [], ram := [],
      dsrImg := Vector.replicate 16 Image.empty, dsrSel := 0, dsrEn := false }
  bsc :=
    { cartImg := Image.empty, cartRam := [], cartInv := false, cartRam6 := false, cartRam7 := false,
      cartPaged := false, romBank := 0, ramBank := 0 }
  ams :=
    { mem := [], reg := #v[0, 1, 2, 3, 4, 5, 6, 7, 8, 9, 10, 11, 12, 13, 14, 15], mode := false, acc := false }
  cru := { bits := [], tmode := false, clk := 0, dec := 0, tint := false, vint := false, elapsed := 0 }
  gsq :=
    { grom := Vector.replicate 16 [],
      gpop := #v[true, false, false, false, false, false, false, false, false, false, false, false, false, false,
        false, false],
      gaddr := 0, gphase := .two, gpref := Vector.replicate 16 0 }
  params := Params.default
  pending := []
  reply := Reply.none
  draws := 0

end Sys2Proof.Machine
end

