-- ==== Sys2Proof/WellFormed.lean ====
section
/-! DEFINITION. The operand checks of each transaction: the address range, evenness and port bits of the memory rows
(30_encoding.md R97) and the bits of the CRU rows (R98). -/

namespace Sys2Proof

/-- An even address in [lo, hi] (20_memory.md R61, 30_encoding.md R97). -/
def evenIn (lo hi : Nat) (a : Word) : Bool :=
  decide (a.toNat % 2 = 0 ∧ lo ≤ a.toNat ∧ a.toNat ≤ hi)

/-- Address bit A1, which selects data (0) or address/status (1) in the VDP and GROM ports (30_encoding.md R97). -/
def portA1 (a : Word) : Bool := a.toNat / 2 % 2 == 1

/-- A CRU bit in [lo, hi] (30_encoding.md R98). -/
def bitIn (lo hi : Nat) (bit : CruBit) : Bool :=
  decide (lo ≤ bit.toNat ∧ bit.toNat ≤ hi)

/-- The operands a decoded transaction may have. Host operands are checked by their types. -/
def Instr.wf : Instr → Bool
  | .mrdRom a => evenIn 0x0000 0x1FFE a
  | .mrdLoram a => evenIn 0x2000 0x3FFE a
  | .mrdPeriph a => evenIn 0x4000 0x5FFE a
  | .mrdCart a => evenIn 0x6000 0x7FFE a
  | .mrdPad a => evenIn 0x8000 0x83FE a
  | .mrdSound a => evenIn 0x8400 0x85FE a
  | .mrdGap a => evenIn 0x8600 0x87FE a
  | .mrdVdpData a => evenIn 0x8800 0x8BFE a && !portA1 a
  | .mrdVdpStat a => evenIn 0x8800 0x8BFE a && portA1 a
  | .mrdVdpWp a => evenIn 0x8C00 0x8FFE a
  | .mrdSpch a => evenIn 0x9000 0x93FE a
  | .mrdSpchWp a => evenIn 0x9400 0x97FE a
  | .mrdGrData a => evenIn 0x9800 0x9BFE a && !portA1 a
  | .mrdGrAddr a => evenIn 0x9800 0x9BFE a && portA1 a
  | .mrdGrWp a => evenIn 0x9C00 0x9FFE a
  | .mrdHiram a => evenIn 0xA000 0xFFFE a
  | .mwrRom a _ => evenIn 0x0000 0x1FFE a
  | .mwrLoram a _ => evenIn 0x2000 0x3FFE a
  | .mwrPeriph a _ => evenIn 0x4000 0x5FFE a
  | .mwrCart a _ => evenIn 0x6000 0x7FFE a
  | .mwrPad a _ => evenIn 0x8000 0x83FE a
  | .mwrSound a _ => evenIn 0x8400 0x85FE a
  | .mwrGap a _ => evenIn 0x8600 0x87FE a
  | .mwrVdpRp a _ => evenIn 0x8800 0x8BFE a
  | .mwrVdpData a _ => evenIn 0x8C00 0x8FFE a && !portA1 a
  | .mwrVdpAddr a _ => evenIn 0x8C00 0x8FFE a && portA1 a
  | .mwrSpchRp a _ => evenIn 0x9000 0x93FE a
  | .mwrSpch a _ => evenIn 0x9400 0x97FE a
  | .mwrGrRp a _ => evenIn 0x9800 0x9BFE a
  | .mwrGrData a _ => evenIn 0x9C00 0x9FFE a && !portA1 a
  | .mwrGrAddr a _ => evenIn 0x9C00 0x9FFE a && portA1 a
  | .mwrHiram a _ => evenIn 0xA000 0xFFFE a
  | .crdMode => true
  | .crdTInt => true
  | .crdTClk bit => bitIn 1 14 bit
  | .crdNVdp => true
  | .crdNKbd bit => bitIn 3 10 bit
  | .crdTapeIn => true
  | .crdStored bit => bitIn 1 1 bit || bitIn 11 26 bit || bitIn 28 4095 bit
  | .cwrMode _ => true
  | .cwrTClk bit _ => bitIn 1 14 bit
  | .cwrTB15 _ => true
  | .cwrTExit bit _ => bitIn 16 4095 bit
  | .cwrNAck _ => true
  | .cwrNMotor _ => true
  | .cwrNTapeOut _ => true
  | .cwrDsr bit _ => bitIn 2048 4095 bit
  | .cwrNStore bit _ =>
      bitIn 1 2 bit || bitIn 4 21 bit || bitIn 23 24 bit || bitIn 26 2047 bit
  | .tick _ => true
  | .vdpInt _ => true
  | .reset _ => true
  | .loadRam _ _ => true
  | .loadGrom _ _ _ => true
  | .loadCart _ _ _ _ _ => true
  | .loadDsr _ _ => true
  | .setRam32k _ => true
  | .setAms _ => true
  | .setGram _ => true
  | .getState => true
  | .restoreState _ => true
  | .dbgRdb _ => true
  | .dbgRdw _ => true
  | .status => true

end Sys2Proof
end

