-- ==== Sys2Proof/Decode.lean ====
section
/-! DEFINITION. Decoding a transaction key against the opcode table, first match in table order (30_encoding.md R93),
and, after it, the encoder that writes the key and operands of an instruction (R90, R97 to R99). -/

namespace Sys2Proof

/-- Why a transaction has no meaning (60_exceptions.md R242). -/
inductive DecodeError where
  /-- A sideband key whose id is 15 to 63. -/
  | unusedSidebandId (id : Nat)
  /-- An operand outside the type R99 gives the row. -/
  | operandOutOfType (mnemonic : String)
  deriving DecidableEq, Repr

/-- The key of a transaction with no operand beside it: every operand absent (log 6). -/
def Txn.ofKey (k : Key) : Txn := ⟨k, [], [], .absent⟩

/-- The i-th scalar operand; an absent one is 0. -/
def Txn.scalar (t : Txn) (i : Nat) : Nat := t.words.getD i 0

/-- The memory address K[15:0]. -/
def Txn.addr (t : Txn) : Word := BitVec.ofNat 16 t.key.toNat

/-- The CRU bit address K[11:0] (30_encoding.md R90). -/
def Txn.cruBit (t : Txn) : CruBit := BitVec.ofNat 12 t.key.toNat

/-- The data lines of an MWR: sixteen, so that no bus transaction is refused (60_exceptions.md R242; log 6). -/
def Txn.data (t : Txn) : Word := BitVec.ofNat 16 (t.scalar 0)

/-- The data line of a CWR: one bit (30_encoding.md R96; log 6). -/
def Txn.cruData (t : Txn) : Bool := t.scalar 0 % 2 == 1

/-- A scalar operand of one bit. -/
def bitArg (mnemonic : String) (t : Txn) (i : Nat) : Except DecodeError Bool :=
  if t.scalar i < 2 then .ok (t.scalar i == 1) else .error (.operandOutOfType mnemonic)

/-- A scalar operand of n bits. -/
def fieldArg (mnemonic : String) (n : Nat) (t : Txn) (i : Nat) : Except DecodeError (BitVec n) :=
  if t.scalar i < 2 ^ n then .ok (BitVec.ofNat n (t.scalar i)) else .error (.operandOutOfType mnemonic)

/-- The byte list of a loader. -/
def bytesArg (mnemonic : String) (t : Txn) : Except DecodeError (List Byte) :=
  if t.bytes.all (· < 256) then .ok (t.bytes.map (BitVec.ofNat 8)) else .error (.operandOutOfType mnemonic)

/-- A row whose instruction has no operand. -/
def bare (i : Instr) (_ : Txn) : Except DecodeError Instr := .ok i

/-- A memory read row. -/
def memRead (mk : Word → Instr) (t : Txn) : Except DecodeError Instr := .ok (mk t.addr)

/-- A memory write row. -/
def memWrite (mk : Word → Word → Instr) (t : Txn) : Except DecodeError Instr := .ok (mk t.addr t.data)

/-- A CRU read row of more than one bit. -/
def cruRead (mk : CruBit → Instr) (t : Txn) : Except DecodeError Instr := .ok (mk t.cruBit)

/-- A CRU write row of more than one bit. -/
def cruWrite (mk : CruBit → Bool → Instr) (t : Txn) : Except DecodeError Instr := .ok (mk t.cruBit t.cruData)

/-- A CRU write row of one bit. -/
def cruWriteFixed (mk : Bool → Instr) (t : Txn) : Except DecodeError Instr := .ok (mk t.cruData)

/-- A sideband row whose one operand is a bit. -/
def bitOperand (mnemonic : String) (mk : Bool → Instr) (t : Txn) : Except DecodeError Instr := do
  let v ← bitArg mnemonic t 0
  .ok (mk v)

/-- A sideband row whose one operand is an address. -/
def addrOperand (mnemonic : String) (mk : Word → Instr) (t : Txn) : Except DecodeError Instr := do
  let a ← fieldArg mnemonic 16 t 0
  .ok (mk a)

/-- RESET: kind 0 is COLD and 1 is WARM; no other kind exists (60_exceptions.md R242). -/
def readReset (t : Txn) : Except DecodeError Instr := do
  let warm ← bitArg "RESET" t 0
  .ok (.reset (if warm then .warm else .cold))

/-- LOAD_RAM: A, bytes. -/
def readLoadRam (t : Txn) : Except DecodeError Instr := do
  let a ← fieldArg "LOAD_RAM" 16 t 0
  let bs ← bytesArg "LOAD_RAM" t
  .ok (.loadRam a bs)

/-- LOAD_GROM: base, offset, bytes. -/
def readLoadGrom (t : Txn) : Except DecodeError Instr := do
  let b ← fieldArg "LOAD_GROM" 4 t 0
  let o ← fieldArg "LOAD_GROM" 16 t 1
  let bs ← bytesArg "LOAD_GROM" t
  .ok (.loadGrom b o bs)

/-- LOAD_CART: bytes, inv, ram6, ram7, paged. -/
def readLoadCart (t : Txn) : Except DecodeError Instr := do
  let bs ← bytesArg "LOAD_CART" t
  let inv ← bitArg "LOAD_CART" t 0
  let ram6 ← bitArg "LOAD_CART" t 1
  let ram7 ← bitArg "LOAD_CART" t 2
  let paged ← bitArg "LOAD_CART" t 3
  .ok (.loadCart bs inv ram6 ram7 paged)

/-- LOAD_DSR: slot, bytes. -/
def readLoadDsr (t : Txn) : Except DecodeError Instr := do
  let s ← fieldArg "LOAD_DSR" 4 t 0
  let bs ← bytesArg "LOAD_DSR" t
  .ok (.loadDsr s bs)

/-- The lo and hi fields of a table row: none, or bounds on K[15:0] (memory rows) or K[11:0] (CRU rows). -/
inductive AddrRange where
  | all
  | mem (lo hi : Nat)
  | cru (lo hi : Nat)
  deriving DecidableEq, Repr

/-- A row of the opcode table: its mnemonic, mask, match and range, and how its operands are read. -/
structure Row where
  mnemonic : String
  mask     : Nat
  pattern  : Nat
  range    : AddrRange
  build    : Txn → Except DecodeError Instr

/-- The address of a key lies in the row's range. -/
def AddrRange.holds (r : AddrRange) (k : Nat) : Bool :=
  match r with
  | .all => true
  | .mem lo hi => decide (lo ≤ k % 0x10000 ∧ k % 0x10000 ≤ hi)
  | .cru lo hi => decide (lo ≤ k % 0x1000 ∧ k % 0x1000 ≤ hi)

/-- (K & mask) = match, and the address in range (30_encoding.md R93). -/
def Row.hits (r : Row) (k : Key) : Bool :=
  (k.toNat &&& r.mask) == r.pattern && r.range.holds k.toNat

/-- Rows of op 0 (30_encoding.md R97). -/
def memReadRows : List Row :=
  [ ⟨"MRD.ROM", 0x7E000, 0x00000, .all, memRead .mrdRom⟩,
    ⟨"MRD.LORAM", 0x7E000, 0x02000, .all, memRead .mrdLoram⟩,
    ⟨"MRD.PERIPH", 0x7E000, 0x04000, .all, memRead .mrdPeriph⟩,
    ⟨"MRD.CART", 0x7E000, 0x06000, .all, memRead .mrdCart⟩,
    ⟨"MRD.PAD", 0x7FC00, 0x08000, .all, memRead .mrdPad⟩,
    ⟨"MRD.SOUND", 0x7FE00, 0x08400, .all, memRead .mrdSound⟩,
    ⟨"MRD.GAP", 0x7FE00, 0x08600, .all, memRead .mrdGap⟩,
    ⟨"MRD.VDPDATA", 0x7FC02, 0x08800, .all, memRead .mrdVdpData⟩,
    ⟨"MRD.VDPSTAT", 0x7FC02, 0x08802, .all, memRead .mrdVdpStat⟩,
    ⟨"MRD.VDPWP", 0x7FC00, 0x08C00, .all, memRead .mrdVdpWp⟩,
    ⟨"MRD.SPCH", 0x7FC00, 0x09000, .all, memRead .mrdSpch⟩,
    ⟨"MRD.SPCHWP", 0x7FC00, 0x09400, .all, memRead .mrdSpchWp⟩,
    ⟨"MRD.GRDATA", 0x7FC02, 0x09800, .all, memRead .mrdGrData⟩,
    ⟨"MRD.GRADDR", 0x7FC02, 0x09802, .all, memRead .mrdGrAddr⟩,
    ⟨"MRD.GRWP", 0x7FC00, 0x09C00, .all, memRead .mrdGrWp⟩,
    ⟨"MRD.HIRAM", 0x78000, 0x08000, .mem 0xA000 0xFFFF, memRead .mrdHiram⟩ ]

/-- Rows of op 1 (30_encoding.md R97). -/
def memWriteRows : List Row :=
  [ ⟨"MWR.ROM", 0x7E000, 0x10000, .all, memWrite .mwrRom⟩,
    ⟨"MWR.LORAM", 0x7E000, 0x12000, .all, memWrite .mwrLoram⟩,
    ⟨"MWR.PERIPH", 0x7E000, 0x14000, .all, memWrite .mwrPeriph⟩,
    ⟨"MWR.CART", 0x7E000, 0x16000, .all, memWrite .mwrCart⟩,
    ⟨"MWR.PAD", 0x7FC00, 0x18000, .all, memWrite .mwrPad⟩,
    ⟨"MWR.SOUND", 0x7FE00, 0x18400, .all, memWrite .mwrSound⟩,
    ⟨"MWR.GAP", 0x7FE00, 0x18600, .all, memWrite .mwrGap⟩,
    ⟨"MWR.VDPRP", 0x7FC00, 0x18800, .all, memWrite .mwrVdpRp⟩,
    ⟨"MWR.VDPDATA", 0x7FC02, 0x18C00, .all, memWrite .mwrVdpData⟩,
    ⟨"MWR.VDPADDR", 0x7FC02, 0x18C02, .all, memWrite .mwrVdpAddr⟩,
    ⟨"MWR.SPCHRP", 0x7FC00, 0x19000, .all, memWrite .mwrSpchRp⟩,
    ⟨"MWR.SPCH", 0x7FC00, 0x19400, .all, memWrite .mwrSpch⟩,
    ⟨"MWR.GRRP", 0x7FC00, 0x19800, .all, memWrite .mwrGrRp⟩,
    ⟨"MWR.GRDATA", 0x7FC02, 0x19C00, .all, memWrite .mwrGrData⟩,
    ⟨"MWR.GRADDR", 0x7FC02, 0x19C02, .all, memWrite .mwrGrAddr⟩,
    ⟨"MWR.HIRAM", 0x78000, 0x18000, .mem 0xA000 0xFFFF, memWrite .mwrHiram⟩ ]

/-- Rows of op 2 (30_encoding.md R98). -/
def cruReadRows : List Row :=
  [ ⟨"CRD.MODE", 0x70FFF, 0x20000, .all, bare .crdMode⟩,
    ⟨"CRD.T.INT", 0x71FFF, 0x2100F, .all, bare .crdTInt⟩,
    ⟨"CRD.T.CLK", 0x71000, 0x21000, .cru 0x001 0x00E, cruRead .crdTClk⟩,
    ⟨"CRD.N.VDP", 0x71FFF, 0x20002, .all, bare .crdNVdp⟩,
    ⟨"CRD.N.KBD", 0x71000, 0x20000, .cru 0x003 0x00A, cruRead .crdNKbd⟩,
    ⟨"CRD.TAPEIN", 0x70FFF, 0x2001B, .all, bare .crdTapeIn⟩,
    ⟨"CRD.STORED", 0x70000, 0x20000, .cru 0x000 0xFFF, cruRead .crdStored⟩ ]

/-- Rows of op 3 (30_encoding.md R98). -/
def cruWriteRows : List Row :=
  [ ⟨"CWR.MODE", 0x70FFF, 0x30000, .all, cruWriteFixed .cwrMode⟩,
    ⟨"CWR.T.CLK", 0x71000, 0x31000, .cru 0x001 0x00E, cruWrite .cwrTClk⟩,
    ⟨"CWR.T.B15", 0x71FFF, 0x3100F, .all, cruWriteFixed .cwrTB15⟩,
    ⟨"CWR.T.EXIT", 0x71000, 0x31000, .cru 0x010 0xFFF, cruWrite .cwrTExit⟩,
    ⟨"CWR.N.ACK", 0x71FFF, 0x30003, .all, cruWriteFixed .cwrNAck⟩,
    ⟨"CWR.N.MOTOR", 0x71FFF, 0x30016, .all, cruWriteFixed .cwrNMotor⟩,
    ⟨"CWR.N.TAPEOUT", 0x71FFF, 0x30019, .all, cruWriteFixed .cwrNTapeOut⟩,
    ⟨"CWR.DSR", 0x71800, 0x30800, .all, cruWrite .cwrDsr⟩,
    ⟨"CWR.N.STORE", 0x71000, 0x30000, .cru 0x000 0xFFF, cruWrite .cwrNStore⟩ ]

/-- Sideband rows (30_encoding.md R99). -/
def sidebandRows : List Row :=
  [ ⟨"TICK", 0x7F000, 0x40000, .all, fun t => .ok (.tick (t.scalar 0))⟩,
    ⟨"VDPINT", 0x7F000, 0x41000, .all, bitOperand "VDPINT" .vdpInt⟩,
    ⟨"RESET", 0x7F000, 0x42000, .all, readReset⟩,
    ⟨"LOAD_RAM", 0x7F000, 0x43000, .all, readLoadRam⟩,
    ⟨"LOAD_GROM", 0x7F000, 0x44000, .all, readLoadGrom⟩,
    ⟨"LOAD_CART", 0x7F000, 0x45000, .all, readLoadCart⟩,
    ⟨"LOAD_DSR", 0x7F000, 0x46000, .all, readLoadDsr⟩,
    ⟨"SET_RAM32K", 0x7F000, 0x47000, .all, bitOperand "SET_RAM32K" .setRam32k⟩,
    ⟨"SET_AMS", 0x7F000, 0x48000, .all, bitOperand "SET_AMS" .setAms⟩,
    ⟨"SET_GRAM", 0x7F000, 0x49000, .all, bitOperand "SET_GRAM" .setGram⟩,
    ⟨"GET_STATE", 0x7F000, 0x4A000, .all, bare .getState⟩,
    ⟨"RESTORE_STATE", 0x7F000, 0x4B000, .all, fun t => .ok (.restoreState t.snap)⟩,
    ⟨"DBG_RDB", 0x7F000, 0x4C000, .all, addrOperand "DBG_RDB" .dbgRdb⟩,
    ⟨"DBG_RDW", 0x7F000, 0x4D000, .all, addrOperand "DBG_RDW" .dbgRdw⟩,
    ⟨"STATUS", 0x7F000, 0x4E000, .all, bare .status⟩ ]

/-- The opcode table, in its order. -/
def opcodeTable : List Row :=
  memReadRows ++ memWriteRows ++ cruReadRows ++ cruWriteRows ++ sidebandRows

/-- A key of op 0 or op 1: a memory transaction (30_encoding.md R90). -/
def Key.isMem (k : Key) : Bool := k.toNat / 0x20000 == 0

/-- A key of op 2 or op 3: a CRU transaction (30_encoding.md R90). -/
def Key.isCru (k : Key) : Bool := k.toNat / 0x20000 == 1

/-- A sideband key, K[18] = 1 (30_encoding.md R90). -/
def Key.isSideband (k : Key) : Bool := k.toNat / 0x40000 == 1

/-- The decoder forces A0 = 0 for op 0 and op 1 (30_encoding.md R93, 20_memory.md R61). -/
def Key.forceEven (k : Key) : Key :=
  if Key.isMem k then BitVec.ofNat 19 (k.toNat / 2 * 2) else k

/-- The first row of the table that a key hits (30_encoding.md R93). -/
def rowOf (k : Key) : Option Row := opcodeTable.find? (fun r => r.hits k)

/-- Decoding a transaction (30_encoding.md R93). A sideband id that no row has is refused (R99). -/
def decode (t : Txn) : Except DecodeError Instr :=
  match rowOf (Key.forceEven t.key) with
  | some r => r.build { t with key := Key.forceEven t.key }
  | none => .error (.unusedSidebandId (t.key.toNat / 0x1000 % 64))

/-- The instruction the decoder reads from a key given as a number. A key has 19 bits: a number with a bit above them
is no key (log 9). The operands travel beside the key, so every one of them is absent. -/
def decodeTableWord (_nbits w : Nat) : Option Instr :=
  if w < 2 ^ 19 then (decode (Txn.ofKey (BitVec.ofNat 19 w))).toOption else none

/-! ### The encoder -/

/-- One bit as a number. -/
def bitNat (b : Bool) : Nat := if b then 1 else 0

/-- The key of op 0 or op 1 at an address (30_encoding.md R90). -/
def memKey (op : Nat) (a : Word) : Key := BitVec.ofNat 19 (op * 0x10000 + a.toNat)

/-- The key of op 2 or op 3 at a CRU bit, with M in K[12] and zeros in K[15:13] (30_encoding.md R90, R91). -/
def cruKey (op : Nat) (m : Bool) (bit : CruBit) : Key :=
  BitVec.ofNat 19 (op * 0x10000 + bitNat m * 0x1000 + bit.toNat)

/-- The key of a sideband operation (30_encoding.md R99). -/
def sidebandKey (id : Nat) : Key := BitVec.ofNat 19 (0x40000 + id * 0x1000)

/-- A memory read at an address. -/
def txnRead (a : Word) : Txn := .ofKey (memKey 0 a)

/-- A memory write of a word at an address. -/
def txnWrite (a d : Word) : Txn := { Txn.ofKey (memKey 1 a) with words := [d.toNat] }

/-- A CRU read of a bit in a mode. -/
def txnCruRead (m : Bool) (bit : CruBit) : Txn := .ofKey (cruKey 2 m bit)

/-- A CRU write of a bit in a mode. -/
def txnCruWrite (m : Bool) (bit : CruBit) (v : Bool) : Txn :=
  { Txn.ofKey (cruKey 3 m bit) with words := [bitNat v] }

/-- A sideband operation with its scalar operands and its byte list. -/
def txnSideband (id : Nat) (words : List Nat) (bytes : List Byte) : Txn :=
  { Txn.ofKey (sidebandKey id) with words := words, bytes := bytes.map BitVec.toNat }

/-- The transaction of an instruction. A row that matches both CRU modes is written with M = 0. -/
def encode : Instr → Txn
  | .mrdRom a => txnRead a
  | .mrdLoram a => txnRead a
  | .mrdPeriph a => txnRead a
  | .mrdCart a => txnRead a
  | .mrdPad a => txnRead a
  | .mrdSound a => txnRead a
  | .mrdGap a => txnRead a
  | .mrdVdpData a => txnRead a
  | .mrdVdpStat a => txnRead a
  | .mrdVdpWp a => txnRead a
  | .mrdSpch a => txnRead a
  | .mrdSpchWp a => txnRead a
  | .mrdGrData a => txnRead a
  | .mrdGrAddr a => txnRead a
  | .mrdGrWp a => txnRead a
  | .mrdHiram a => txnRead a
  | .mwrRom a d => txnWrite a d
  | .mwrLoram a d => txnWrite a d
  | .mwrPeriph a d => txnWrite a d
  | .mwrCart a d => txnWrite a d
  | .mwrPad a d => txnWrite a d
  | .mwrSound a d => txnWrite a d
  | .mwrGap a d => txnWrite a d
  | .mwrVdpRp a d => txnWrite a d
  | .mwrVdpData a d => txnWrite a d
  | .mwrVdpAddr a d => txnWrite a d
  | .mwrSpchRp a d => txnWrite a d
  | .mwrSpch a d => txnWrite a d
  | .mwrGrRp a d => txnWrite a d
  | .mwrGrData a d => txnWrite a d
  | .mwrGrAddr a d => txnWrite a d
  | .mwrHiram a d => txnWrite a d
  | .crdMode => txnCruRead false 0
  | .crdTInt => txnCruRead true 15
  | .crdTClk bit => txnCruRead true bit
  | .crdNVdp => txnCruRead false 2
  | .crdNKbd bit => txnCruRead false bit
  | .crdTapeIn => txnCruRead false 27
  | .crdStored bit => txnCruRead false bit
  | .cwrMode v => txnCruWrite false 0 v
  | .cwrTClk bit v => txnCruWrite true bit v
  | .cwrTB15 v => txnCruWrite true 15 v
  | .cwrTExit bit v => txnCruWrite true bit v
  | .cwrNAck v => txnCruWrite false 3 v
  | .cwrNMotor v => txnCruWrite false 22 v
  | .cwrNTapeOut v => txnCruWrite false 25 v
  | .cwrDsr bit v => txnCruWrite false bit v
  | .cwrNStore bit v => txnCruWrite false bit v
  | .tick delta => txnSideband 0 [delta] []
  | .vdpInt level => txnSideband 1 [bitNat level] []
  | .reset kind => txnSideband 2 [bitNat (kind == .warm)] []
  | .loadRam a bytes => txnSideband 3 [a.toNat] bytes
  | .loadGrom base offset bytes => txnSideband 4 [base.toNat, offset.toNat] bytes
  | .loadCart bytes inv ram6 ram7 paged =>
      txnSideband 5 [bitNat inv, bitNat ram6, bitNat ram7, bitNat paged] bytes
  | .loadDsr slot bytes => txnSideband 6 [slot.toNat] bytes
  | .setRam32k v => txnSideband 7 [bitNat v] []
  | .setAms v => txnSideband 8 [bitNat v] []
  | .setGram v => txnSideband 9 [bitNat v] []
  | .getState => txnSideband 10 [] []
  | .restoreState snap => { txnSideband 11 [] [] with snap := snap }
  | .dbgRdb a => txnSideband 12 [a.toNat] []
  | .dbgRdw a => txnSideband 13 [a.toNat] []
  | .status => txnSideband 14 [] []

/-- The CRU mode a row demands in K[12], where it demands one (30_encoding.md R98). -/
def Instr.cruMode : Instr → Option Bool
  | .mrdRom _ | .mrdLoram _ | .mrdPeriph _ | .mrdCart _ | .mrdPad _ | .mrdSound _ | .mrdGap _ | .mrdVdpData _
  | .mrdVdpStat _ | .mrdVdpWp _ | .mrdSpch _ | .mrdSpchWp _ | .mrdGrData _ | .mrdGrAddr _ | .mrdGrWp _
  | .mrdHiram _ => none
  | .mwrRom _ _ | .mwrLoram _ _ | .mwrPeriph _ _ | .mwrCart _ _ | .mwrPad _ _ | .mwrSound _ _ | .mwrGap _ _
  | .mwrVdpRp _ _ | .mwrVdpData _ _ | .mwrVdpAddr _ _ | .mwrSpchRp _ _ | .mwrSpch _ _ | .mwrGrRp _ _
  | .mwrGrData _ _ | .mwrGrAddr _ _ | .mwrHiram _ _ => none
  | .crdMode | .crdTapeIn => none
  | .crdStored bit => if bit.toNat < 16 then some false else none
  | .crdTInt | .crdTClk _ => some true
  | .crdNVdp | .crdNKbd _ => some false
  | .cwrMode _ => none
  | .cwrTClk _ _ | .cwrTB15 _ | .cwrTExit _ _ => some true
  | .cwrNAck _ | .cwrNMotor _ | .cwrNTapeOut _ | .cwrDsr _ _ | .cwrNStore _ _ => some false
  | .tick _ | .vdpInt _ | .reset _ | .loadRam _ _ | .loadGrom _ _ _ | .loadCart _ _ _ _ _ | .loadDsr _ _
  | .setRam32k _ | .setAms _ | .setGram _ | .getState | .restoreState _ | .dbgRdb _ | .dbgRdw _ | .status => none

end Sys2Proof
end

