-- ==== Sys2Proof/Machine/Operands.lean ====
section
/-! DEFINITION. The operand forms of the buses: bytes and words (00_scope.md R10), device lanes (30_encoding.md R94,
R95), and every field the rules take from an address or a CRU bit. -/

namespace Sys2Proof.Machine

/-- hi8(w) = w[15:8] (00_scope.md R10). -/
def hi8 (w : Word) : Byte := w.extractLsb' 8 8

/-- lo8(w) = w[7:0] (00_scope.md R10). -/
def lo8 (w : Word) : Byte := w.extractLsb' 0 8

/-- be16(h, l) = (h << 8) | l (00_scope.md R10). -/
def be16 (h l : Byte) : Word := h ++ l

/-- swap16(w) = (lo8(w) << 8) | hi8(w) (00_scope.md R10). -/
def swap16 (w : Word) : Word := be16 (lo8 w) (hi8 w)

/-- The lane of an 8-bit device on a read: the byte in D[15:8], D[7:0] = 0x00 (30_encoding.md R94). -/
def laneWord (b : Byte) : Word := be16 b 0

/-- The lane of an 8-bit device on a write: D[15:8], D[7:0] ignored (30_encoding.md R94). -/
def laneByte (d : Word) : Byte := hi8 d

/-- E = A & 0xFFFE (20_memory.md R61). -/
def evenAddr (a : Word) : Word := a &&& 0xFFFE

/-- The region of an address (20_memory.md R64). -/
def region (a : Word) : Region :=
  if a.toNat < 0x2000 then .rom
  else if a.toNat < 0x4000 then .loram
  else if a.toNat < 0x6000 then .periph
  else if a.toNat < 0x8000 then .cart
  else if a.toNat < 0x8400 then .pad
  else if a.toNat < 0x8600 then .sound
  else if a.toNat < 0x8800 then .gap
  else if a.toNat < 0x9000 then .vdp
  else if a.toNat < 0x9800 then .speech
  else if a.toNat < 0xA000 then .grom
  else .hiram

/-- The AMS window A[15:12] (20_memory.md R65). -/
def amsWindow (a : Word) : BitVec 4 := a.extractLsb' 12 4

/-- The AMS register index E[4:1] (40_bus_memory.md R119). -/
def amsRegIndex (e : Word) : BitVec 4 := e.extractLsb' 1 4

/-- The base field E[5:2] of a GROM data port (41_grom.md R160). -/
def gromBaseField (e : Word) : BitVec 4 := e.extractLsb' 2 4

/-- The scratchpad cell of an address (20_memory.md R69). -/
def padAddr (a : Word) : Word := evenAddr a ||| 0x0300

/-- The half of the cartridge window, E[12] (40_bus_memory.md R121). -/
def cartHalf (e : Word) : Bool := e.getLsbD 12

/-- A CRU bit doubled: the address in DSR space, [0x1000, 0x1FFE] (42_cru.md R195). -/
def dsrAddr (bit : CruBit) : Word := BitVec.ofNat 16 (2 * bit.toNat)

/-- The slot A[11:8] of an address in DSR space (42_cru.md R195). -/
def dsrSlot (a : Word) : BitVec 4 := a.extractLsb' 8 4

/-- The AMS sub-field A[3:1] of an address in DSR space (42_cru.md R195). -/
def dsrSubField (a : Word) : BitVec 3 := a.extractLsb' 1 3

/-- The keyboard row of CRU bits 3 to 10 (42_cru.md R184). -/
def kbdRow (bit : CruBit) : BitVec 3 := BitVec.ofNat 3 (bit.toNat - 3)

/-- The bit of CLK that a CRU bit 1 to 14 names: CRU bit k is CLK[k-1] (10_state.md R44). -/
def clkIndex (bit : CruBit) : Nat := bit.toNat - 1

/-- Element i of a bank of sixteen. -/
def at16 {α : Type} (v : Vector α 16) (i : BitVec 4) : α := v[i.toNat]'i.isLt

/-- Element i of a bank of sixteen replaced. -/
def put16 {α : Type} (v : Vector α 16) (i : BitVec 4) (x : α) : Vector α 16 := v.set i.toNat x i.isLt

/-- v[i] <- b in a word of bits. -/
def putBit {n : Nat} (v : BitVec n) (i : Nat) (b : Bool) : BitVec n :=
  if b then v ||| BitVec.ofNat n (2 ^ i) else v &&& ~~~ BitVec.ofNat n (2 ^ i)

end Sys2Proof.Machine
end

