-- ==== Sys2Proof/Machine/Stores.lean ====
section
/-! DEFINITION. The named operations over the block's stores: byte memories, byte lists and the CRU lines. Each store is
kept in one canonical form, so that equal stores are equal data. -/

namespace Sys2Proof.Machine

/-- The byte at an index: 0x00 where nothing is listed (10_state.md R51, "zero-initialized on reset"). -/
def Memory.read : Memory → Nat → Byte
  | [], _ => 0
  | c :: m, i => if c.1 = i then c.2 else Memory.read m i

/-- Every entry of an index removed. -/
def Memory.erase (m : Memory) (i : Nat) : Memory := m.filter (fun c => c.1 != i)

/-- An entry put before the first higher index. -/
def Memory.insert : Memory → Nat → Byte → Memory
  | [], i, b => [(i, b)]
  | c :: m, i, b => if i < c.1 then (i, b) :: c :: m else c :: Memory.insert m i b

/-- S[i] <- b. Storing 0x00 removes the entry, so the canonical form is kept. -/
def Memory.write (m : Memory) (i : Nat) (b : Byte) : Memory :=
  if b = 0 then Memory.erase m i else Memory.insert (Memory.erase m i) i b

/-- The canonical form: indices strictly rising, and no entry equal to what an unlisted index reads as. -/
abbrev Memory.wf (m : Memory) : Prop :=
  m.Pairwise (fun c d => c.1 < d.1) ∧ ∀ c ∈ m, c.2 ≠ 0

/-- Every entry lies below a size. -/
abbrev Memory.within (m : Memory) (size : Nat) : Prop := ∀ c ∈ m, c.1 < size

/-- The word at index i, high byte first (20_memory.md R63). -/
def Memory.readWord (m : Memory) (i : Nat) : Word := be16 (Memory.read m i) (Memory.read m (i + 1))

/-- A word stored at index i, high byte first (20_memory.md R63). -/
def Memory.writeWord (m : Memory) (i : Nat) (d : Word) : Memory :=
  Memory.write (Memory.write m i (hi8 d)) (i + 1) (lo8 d)

/-- The entries below an index: the rest cleared to 0x00. -/
def Memory.below (m : Memory) (n : Nat) : Memory := m.filter (fun c => decide (c.1 < n))

/-- The memory that holds a byte list from an index on. -/
def Memory.ofBytes : Nat → List Byte → Memory
  | _, [] => []
  | i, b :: bs => if b = 0 then Memory.ofBytes (i + 1) bs else (i, b) :: Memory.ofBytes (i + 1) bs

/-- byte(S, i) of a byte list: 0x00 when i is not below its length (00_scope.md R11). -/
def Image.byte (img : Image) (i : Nat) : Byte := if i < img.size then Memory.read img.cells i else 0

/-- be16(byte(S, i), byte(S, i + 1)). -/
def Image.word (img : Image) (i : Nat) : Word := be16 (Image.byte img i) (Image.byte img (i + 1))

/-- A byte list as it is given. -/
def Image.ofBytes (bs : List Byte) : Image := ⟨bs.length, Memory.ofBytes 0 bs⟩

/-- A byte list padded with 0x00 to a size (43_host.md R212). -/
def Image.padded (bs : List Byte) (size : Nat) : Image := ⟨size, Memory.ofBytes 0 bs⟩

/-- An image is canonical and lies inside its length. -/
abbrev Image.wf (img : Image) : Prop := Memory.wf img.cells ∧ Memory.within img.cells img.size

/-- CRUBITS[i]. -/
def CruLines.read (l : CruLines) (i : Nat) : Bool := l.contains i

/-- A line put before the first higher one. -/
def CruLines.insert : CruLines → Nat → CruLines
  | [], i => [i]
  | j :: l, i => if i < j then i :: j :: l else j :: CruLines.insert l i

/-- CRUBITS[i] <- v. -/
def CruLines.write (l : CruLines) (i : Nat) (v : Bool) : CruLines :=
  if v then CruLines.insert (l.filter (fun j => j != i)) i else l.filter (fun j => j != i)

/-- The canonical form of the CRU lines: strictly rising, each below 4096 (10_state.md R42). -/
abbrev CruLines.wf (l : CruLines) : Prop := l.Pairwise (fun i j => i < j) ∧ ∀ i ∈ l, i < 4096

end Sys2Proof.Machine
end

