-- ==== Sys2Proof/Machine/Flags.lean ====
section
/-! DEFINITION. The derived signals of the block: bank count and seats (10_state.md R25, 40_bus_memory.md R121), GMULTI
(10_state.md R38), the interrupt outputs (60_exceptions.md R243) and the keyboard column (42_cru.md R184). -/

namespace Sys2Proof.Machine

/-- CART_BANKS = length(CART_IMG) / 0x2000 (10_state.md R25). -/
def cartBanks (b : BankSwitch) : Nat := b.cartImg.size / 0x2000

/-- CART_RAM_SIZE = max(0x2000, P_CART_RAM_BANKS * 0x1000) (10_state.md R26). -/
def cartRamSize (p : Params) : Nat := max 0x2000 (p.cartRamBanks * 0x1000)

/-- ramSeated(E): cartridge RAM, not ROM, answers the half of E (40_bus_memory.md R121). -/
def ramSeated (b : BankSwitch) (e : Word) : Bool := if cartHalf e then b.cartRam7 else b.cartRam6

/-- paged = (CART_PAGED = 1 and CART_RAM7 = 1) (40_bus_memory.md R121). -/
def cartRamPaged (b : BankSwitch) : Bool := b.cartPaged && b.cartRam7

/-- GMULTI: some base other than 0 is populated (10_state.md R38). -/
def gmulti (g : GromSeq) : Bool := g.gpop.toList.tail.any id

/-- A CRU line. -/
def cruLine (c : CruUnit) (i : Nat) : Bool := CruLines.read c.bits i

/-- INT_VDP = VINT & CRUBITS[2] (60_exceptions.md R243). -/
def intVdp (c : CruUnit) : Bool := c.vint && cruLine c 2

/-- INT_TIMER = TINT & CRUBITS[3] (60_exceptions.md R243). -/
def intTimer (c : CruUnit) : Bool := c.tint && cruLine c 3

/-- The keyboard column, CRUBITS[18] least significant (42_cru.md R184). -/
def kbdColumn (c : CruUnit) : BitVec 3 :=
  BitVec.ofNat 3 (bitNat (cruLine c 18) + 2 * bitNat (cruLine c 19) + 4 * bitNat (cruLine c 20))

/-- What the decrementer shows of itself: (max(DEC, 0) mod 2^14) (42_cru.md R183). -/
def decReading (c : CruUnit) : BitVec 14 := BitVec.ofNat 14 c.dec.toNat

/-- The wait-state charge of a timed transaction at an address (40_bus_memory.md R110). -/
def waitCycles (p : Params) (isWrite : Bool) (a : Word) : Nat :=
  if isWrite && region (evenAddr a) == .grom then p.waitGromWrite else p.waitDefault

end Sys2Proof.Machine
end

