-- ==== Sys2Proof/Machine/Ops.lean ====
section
/-! DEFINITION. The shared operations the meanings are written over: replies and errors, RAM routing and AMS
translation (20_memory.md), the cartridge window (40_bus_memory.md section 4.0), the GROM sequencer (41_grom.md), the
CRU writes (42_cru.md), the loaders (43_host.md) and the reset (70_reset_and_hazards.md). -/

namespace Sys2Proof.Machine

/-! ### Replies, draws and errors -/

/-- A timed transaction's reply: its value, its charge, its device calls (40_bus_memory.md R110). -/
def State.timed (s : State) (isWrite : Bool) (a : Word) (v : Value) (calls : List DeviceCall) : State :=
  { s with reply := ⟨v, waitCycles s.params isWrite a, calls, .none⟩ }

/-- The reply of a timed read that calls no device. -/
def State.timedRead (s : State) (a : Word) (d : Word) : State := s.timed false a (.word d) []

/-- The reply of a timed write that calls no device. -/
def State.timedWrite (s : State) (a : Word) : State := s.timed true a .nothing []

/-- The reply of a transaction that charges nothing (40_bus_memory.md R110, 43_host.md R224). -/
def State.untimed (s : State) (v : Value) (calls : List DeviceCall) : State := { s with reply := ⟨v, 0, calls, .none⟩ }

/-- `raise HostError(code)`: the one way an operation fails. It changes no state element of the block; the error goes
to the host that issued the operation, and the block accepts further transactions (60_exceptions.md R240). -/
def State.raise (s : State) (e : HostError) : State := { s with reply := ⟨.nothing, 0, [], some e⟩ }

/-- One more free value drawn. -/
def State.draw (s : State) : State := { s with draws := s.draws + 1 }

/-- Units replaced. -/
def State.setDecoder (s : State) (u : Decoder) : State := { s with decoder := u }

/-- The bank-switch unit replaced. -/
def State.setBsc (s : State) (u : BankSwitch) : State := { s with bsc := u }

/-- The page mapper replaced. -/
def State.setAms (s : State) (u : PageMapper) : State := { s with ams := u }

/-- The CRU replaced. -/
def State.setCru (s : State) (u : CruUnit) : State := { s with cru := u }

/-- The GROM sequencer replaced. -/
def State.setGsq (s : State) (u : GromSeq) : State := { s with gsq := u }

/-- The whole block replaced. -/
def State.setBlock (s : State) (b : Block) : State := { s with toBlock := b }

/-! ### Console ROM, RAM and AMS translation -/

/-- The console ROM word at E (40_bus_memory.md R111). -/
def romWord (d : Decoder) (e : Word) : Word := Memory.readWord d.rom e.toNat

/-- TMAP, the fixed transparent table (10_state.md R36). -/
def tmap (w : BitVec 4) : Option Nat :=
  if w.toNat = 2 ∨ w.toNat = 3 ∨ 10 ≤ w.toNat then some w.toNat else none

/-- amsPage(w): the page register in mapping mode, TMAP in transparent mode (20_memory.md R66). -/
def amsPage (u : PageMapper) (w : BitVec 4) : Option Nat :=
  if u.mode then some (at16 u.reg w).toNat else tmap w

/-- amsPhys(A): the masked page, times the page size, plus A[11:0] (20_memory.md R66). The sum is the rule's OR, since
the low twelve bits of the first part are 0. -/
def amsPhys (p : Params) (u : PageMapper) (a : Word) : Option Nat :=
  (amsPage u (amsWindow a)).map (fun page => (page &&& (p.amsPages - 1)) * 0x1000 + a.toNat % 0x1000)

/-- amsGet(A) (20_memory.md R67). -/
def amsGet (p : Params) (u : PageMapper) (a : Word) : Byte :=
  match amsPhys p u a with
  | some i => Memory.read u.mem i
  | none => 0

/-- amsSet(A, b) (20_memory.md R67). -/
def amsSet (p : Params) (u : PageMapper) (a : Word) (b : Byte) : PageMapper :=
  match amsPhys p u a with
  | some i => { u with mem := Memory.write u.mem i b }
  | none => u

/-- The byte LORAM or HIRAM holds at an address, through the routing of 20_memory.md R68. -/
def ramByte (s : State) (a : Word) : Byte :=
  if s.decoder.amsEn then amsGet s.params s.ams a
  else if s.decoder.ram32kEn then Memory.read s.decoder.ram a.toNat
  else 0

/-- A byte stored in LORAM or HIRAM through the same routing (20_memory.md R68, 43_host.md R210). -/
def setRamByte (s : State) (a : Word) (b : Byte) : State :=
  if s.decoder.amsEn then s.setAms (amsSet s.params s.ams a b)
  else if s.decoder.ram32kEn then
    s.setDecoder { s.decoder with ram := Memory.write s.decoder.ram a.toNat b }
  else s

/-- ramRead16(E) (20_memory.md R68). -/
def ramRead16 (s : State) (e : Word) : Word := be16 (ramByte s e) (ramByte s (e + 1))

/-- ramWrite16(E, D) (20_memory.md R68). -/
def ramWrite16 (s : State) (e d : Word) : State := setRamByte (setRamByte s e (hi8 d)) (e + 1) (lo8 d)

/-- The scratchpad word of an address (40_bus_memory.md R126). -/
def padWord (d : Decoder) (a : Word) : Word := Memory.readWord d.ram (padAddr a).toNat

/-- A word stored in the scratchpad (40_bus_memory.md R127). -/
def setPadWord (d : Decoder) (a w : Word) : Decoder := { d with ram := Memory.writeWord d.ram (padAddr a).toNat w }

/-! ### The peripheral window -/

/-- amsRegRead(i) (40_bus_memory.md R119). -/
def amsRegRead (u : PageMapper) (i : BitVec 4) : Word := if u.acc then at16 u.reg i else 0

/-- amsRegWrite(i, P) (40_bus_memory.md R120). -/
def amsRegWrite (u : PageMapper) (i : BitVec 4) (page : Word) : PageMapper :=
  if u.acc then { u with reg := put16 u.reg i page } else u

/-- The register overlay is shown: AMS_EN = 1 and AMS_ACC = 1 (40_bus_memory.md R117). -/
def amsOverlay (s : State) : Bool := s.decoder.amsEn && s.ams.acc

/-- The word the selected peripheral ROM shows at E (40_bus_memory.md R117). -/
def dsrWord (d : Decoder) (e : Word) : Word :=
  if d.dsrEn then Image.word (at16 d.dsrImg d.dsrSel) (e.toNat - 0x4000) else 0

/-- The word of the peripheral window at E (40_bus_memory.md R117). -/
def periphWord (s : State) (e : Word) : Word :=
  if amsOverlay s then swap16 (amsRegRead s.ams (amsRegIndex e)) else dsrWord s.decoder e

/-- The effect of a write of the peripheral window at E (40_bus_memory.md R118). -/
def periphWrite (s : State) (e d : Word) : State :=
  if amsOverlay s then s.setAms (amsRegWrite s.ams (amsRegIndex e) (swap16 d)) else s

/-! ### The cartridge window -/

/-- cartRomRead(E) (40_bus_memory.md R122). -/
def cartRomRead (b : BankSwitch) (e : Word) : Word := Image.word b.cartImg (b.romBank * 0x2000 + (e.toNat - 0x6000))

/-- cartRamIdx(E) (40_bus_memory.md R123). -/
def cartRamIdx (b : BankSwitch) (e : Word) : Nat :=
  if cartHalf e && cartRamPaged b then b.ramBank * 0x1000 + e.toNat % 0x1000 else e.toNat - 0x6000

/-- cartRamRead(E) (40_bus_memory.md R123). -/
def cartRamRead (b : BankSwitch) (e : Word) : Word := Memory.readWord b.cartRam (cartRamIdx b e)

/-- cartRamWrite(E, D) (40_bus_memory.md R124). -/
def cartRamWrite (b : BankSwitch) (e d : Word) : BankSwitch :=
  { b with cartRam := Memory.writeWord b.cartRam (cartRamIdx b e) d }

/-- The word of the cartridge window at E (40_bus_memory.md R128). -/
def cartWord (b : BankSwitch) (e : Word) : Word := if ramSeated b e then cartRamRead b e else cartRomRead b e

/-- The source s of a bank-select index (40_bus_memory.md R125). -/
def bankSelectSource (p : Params) (e d : Word) : Word :=
  match p.bankSelectSource with
  | .address => e
  | .data => d

/-- bankSelect(E, D) (40_bus_memory.md R125). -/
def bankSelect (p : Params) (b : BankSwitch) (e d : Word) : BankSwitch :=
  let k := (bankSelectSource p e d).toNat / 2
  if cartRamPaged b && decide (p.cartRamSel.toNat ≤ e.toNat) then
    { b with ramBank := k &&& (p.cartRamBanks - 1) }
  else if 0 < cartBanks b then
    { b with romBank :=
        if b.cartInv then cartBanks b - 1 - (k &&& (cartBanks b - 1)) else k &&& (cartBanks b - 1) }
  else b

/-- The effect of a write of the cartridge window at E (40_bus_memory.md R129). -/
def cartWrite (p : Params) (b : BankSwitch) (e d : Word) : BankSwitch :=
  if ramSeated b e then cartRamWrite b e d else bankSelect p b e d

/-! ### The GROM sequencer -/

/-- gbase(E) (41_grom.md R160). -/
def gbase (g : GromSeq) (e : Word) : BitVec 4 := if gmulti g then gromBaseField e else 0

/-- grefill(): every latch takes its base's byte at the cursor (41_grom.md R161). -/
def grefill (g : GromSeq) : GromSeq :=
  { g with gpref := Vector.ofFn (fun b => Memory.read g.grom[b] g.gaddr.toNat) }

/-- ginc() (41_grom.md R162). -/
def ginc (g : GromSeq) : GromSeq := { g with gaddr := g.gaddr + 1 }

/-- GROM[b][i] <- v. -/
def gromStore (g : GromSeq) (b : BitVec 4) (i : Word) (v : Byte) : GromSeq :=
  { g with grom := put16 g.grom b (Memory.write (at16 g.grom b) i.toNat v) }

/-- What an address-port read leaves in the cursor (41_grom.md R164). -/
def gromFold (f : GromFold) (a : Word) : Word :=
  match f with
  | .shift => be16 (lo8 a) 0
  | .dup => be16 (lo8 a) (lo8 a)
  | .zext => be16 0 (lo8 a)

/-- The effect of a GROM data write at E (41_grom.md R167). -/
def gromDataWrite (gramEn : Bool) (g : GromSeq) (e d : Word) : GromSeq :=
  if gramEn then ginc (grefill (gromStore g (gbase g e) (g.gaddr - 1) (laneByte d))) else g

/-- The effect of a GROM address-port write (41_grom.md R168): the byte is shifted into the cursor, and the second
write of a pair refills and advances. -/
def gromAddrWrite (g : GromSeq) (d : Word) : GromSeq :=
  let g1 := { g with gaddr := be16 (lo8 g.gaddr) (laneByte d) }
  match g.gphase with
  | .two => { g1 with gphase := .one }
  | .one => ginc (grefill { g1 with gphase := .two })

/-! ### CRU writes and the timer -/

/-- CRUBITS[i] <- v. -/
def storeLine (c : CruUnit) (i : Nat) (v : Bool) : CruUnit := { c with bits := CruLines.write c.bits i v }

/-- CLK[k-1] <- v, with the immediate reload when the result is nonzero (42_cru.md R189). -/
def clockWrite (c : CruUnit) (bit : CruBit) (v : Bool) : CruUnit :=
  let clk := putBit c.clk (clkIndex bit) v
  { c with clk := clk, dec := if clk = 0 then c.dec else clk.toNat }

/-- TICK (42_cru.md R199). -/
def timerTick (c : CruUnit) (delta : Nat) : CruUnit :=
  let c1 := { c with elapsed := c.elapsed + delta }
  if c.clk = 0 then c1
  else if c.dec - delta ≤ 0 then { c1 with dec := c.clk.toNat, tint := true }
  else { c1 with dec := c.dec - delta }

/-- The tape motor write: the line stored and the device called (42_cru.md R193). -/
def motorWrite (v : Bool) (s : State) : State :=
  (s.setCru (storeLine s.cru 22 v)).untimed .nothing [.tapeMotor v]

/-- The tape output write (42_cru.md R194). -/
def tapeOutWrite (v : Bool) (s : State) : State :=
  (s.setCru (storeLine s.cru 25 v)).untimed .nothing [.tapeOut v]

/-- The plain stored write (42_cru.md R196). -/
def storeWrite (bit : CruBit) (v : Bool) (s : State) : State :=
  (s.setCru (storeLine s.cru bit.toNat v)).untimed .nothing []

/-- The peripheral ROM selection of a DSR-space write (42_cru.md R195). -/
def dsrSelect (p : Params) (d : Decoder) (bit : CruBit) (v : Bool) : Decoder :=
  let a := dsrAddr bit
  if lo8 a = 0 then
    if v then { d with dsrSel := dsrSlot a, dsrEn := true }
    else if dsrSlot a = d.dsrSel ∨ p.dsrDisableAny then { d with dsrEn := false }
    else d
  else d

/-- The AMS controls of a DSR-space write (42_cru.md R195). -/
def amsControl (u : PageMapper) (bit : CruBit) (v : Bool) : PageMapper :=
  let a := dsrAddr bit
  if 0x1E00 ≤ a.toNat ∧ a.toNat < 0x1F00 then
    if dsrSubField a = 0 then { u with acc := v }
    else if dsrSubField a = 1 then { u with mode := v }
    else u
  else u

/-- The DSR-space write (42_cru.md R195). -/
def dsrWrite (bit : CruBit) (v : Bool) (s : State) : State :=
  (((s.setCru (storeLine s.cru bit.toNat v)).setDecoder (dsrSelect s.params s.decoder bit v)).setAms
    (amsControl s.ams bit v)).untimed .nothing []

/-- The normal-mode write of a bit from 16 on: the row that the bit decodes to with M = 0 (42_cru.md R191, R193 to
R196). -/
def normalWrite (bit : CruBit) (v : Bool) (s : State) : State :=
  if bit = 22 then motorWrite v s
  else if bit = 25 then tapeOutWrite v s
  else if 0x800 ≤ bit.toNat then dsrWrite bit v s
  else storeWrite bit v s

/-! ### Loaders and debug reads -/

/-- One byte of LOAD_RAM at its target (43_host.md R210). -/
def loadRamByte (t : Word) (b : Byte) (s : State) : State :=
  match region t with
  | .loram | .hiram => setRamByte s t b
  | .cart =>
    if ramSeated s.bsc (evenAddr t) then
      s.setBsc { s.bsc with
        cartRam := Memory.write s.bsc.cartRam (cartRamIdx s.bsc (evenAddr t) + t.toNat % 2) b }
    else s
  | .pad => s.setDecoder { s.decoder with ram := Memory.write s.decoder.ram (t ||| 0x0300).toNat b }
  | .rom | .periph | .sound | .gap | .vdp | .speech | .grom => s

/-- The bytes of LOAD_RAM from an address on, wrapping at 2^16 (43_host.md R210). -/
def loadRamBytes : Word → List Byte → State → State
  | _, [], s => s
  | t, b :: bs, s => loadRamBytes (t + 1) bs (loadRamByte t b s)

/-- The bytes of LOAD_GROM from an offset on, wrapping at 2^16 (43_host.md R211). -/
def loadGromBytes (base : BitVec 4) : Word → List Byte → GromSeq → GromSeq
  | _, [], g => g
  | o, b :: bs, g => loadGromBytes base (o + 1) bs (gromStore g base o b)

/-- The populated flag of a loaded base (43_host.md R211). -/
def populate (g : GromSeq) (base : BitVec 4) : GromSeq :=
  if base = 0 then g else { g with gpop := put16 g.gpop base true }

/-- ceil(n / 0x2000) * 0x2000 (43_host.md R212). -/
def paddedSize (n : Nat) : Nat := (n + 0x1FFF) / 0x2000 * 0x2000

/-- A cartridge installed with its flags (43_host.md R212). -/
def installCart (bytes : List Byte) (inv ram6 ram7 paged : Bool) : BankSwitch :=
  { cartImg := Image.padded bytes (paddedSize bytes.length), cartRam := [], cartInv := inv, cartRam6 := ram6,
    cartRam7 := ram7, cartPaged := paged, romBank := 0, ramBank := 0 }

/-- The word a debug read of E returns (43_host.md R221). -/
def debugWord (s : State) (e : Word) : Word :=
  match region e with
  | .rom => romWord s.decoder e
  | .loram | .hiram => ramRead16 s e
  | .periph => periphWord s e
  | .cart => cartWord s.bsc e
  | .pad => padWord s.decoder e
  | .sound | .gap | .vdp | .speech | .grom => 0

/-- The byte a debug read of A returns (43_host.md R222). -/
def debugByte (s : State) (a : Word) : Byte :=
  if a.toNat % 2 = 0 then hi8 (debugWord s (evenAddr a)) else lo8 (debugWord s (evenAddr a))

/-! ### Reset and construction -/

/-- AMS_REG[i] = i (70_reset_and_hazards.md R260). -/
def identityRegs : Vector Word 16 := #v[0, 1, 2, 3, 4, 5, 6, 7, 8, 9, 10, 11, 12, 13, 14, 15]

/-- What both kinds of reset do to DEC's stores. -/
def resetDecoder (kind : ResetKind) (d : Decoder) : Decoder :=
  match kind with
  | .cold => { d with ram := [], dsrEn := false, dsrSel := 0 }
  | .warm => { d with ram := [] }

/-- The bank-switch unit after a reset: a warm one keeps the cartridge and its flags. -/
def resetBsc (kind : ResetKind) (b : BankSwitch) : BankSwitch :=
  match kind with
  | .cold =>
    { cartImg := Image.empty, cartRam := [], cartInv := false, cartRam6 := false, cartRam7 := false,
      cartPaged := false, romBank := 0, ramBank := 0 }
  | .warm => { b with cartRam := [], romBank := 0, ramBank := 0 }

/-- The page mapper after a reset. -/
def resetAms : PageMapper := { mem := [], reg := identityRegs, mode := false, acc := false }

/-- The CRU after a reset. -/
def resetCru : CruUnit :=
  { bits := [], tmode := false, clk := 0, dec := 0, tint := false, vint := false, elapsed := 0 }

/-- The GROM sequencer after a reset: only the console GROM, base 0 below 0x6000, and GPOP[0] are kept. -/
def resetGsq (g : GromSeq) : GromSeq :=
  { grom := put16 (Vector.replicate 16 []) 0 (Memory.below (at16 g.grom 0) 0x6000),
    gpop := put16 (Vector.replicate 16 false) 0 (at16 g.gpop 0),
    gaddr := 0, gphase := .two, gpref := Vector.replicate 16 0 }

/-- RESET (70_reset_and_hazards.md R260). -/
def resetBlock (kind : ResetKind) (b : Block) : Block :=
  { decoder := resetDecoder kind b.decoder, bsc := resetBsc kind b.bsc, ams := resetAms, cru := resetCru,
    gsq := resetGsq b.gsq }

/-- The freshly created stores of construction, before its cold reset (70_reset_and_hazards.md R262). A ROM image
longer than 8 KiB is cut (log 14). -/
def freshBlock (rom grom : List Byte) (ram32k ams gram : Bool) : Block :=
  { decoder :=
      { ram32kEn := ram32k, amsEn := ams, gramEn := gram, rom := Memory.below (Memory.ofBytes 0 rom) 0x2000,
        ram := [], dsrImg := Vector.replicate 16 Image.empty, dsrSel := 0, dsrEn := false },
    bsc := resetBsc .cold
      { cartImg := Image.empty, cartRam := [], cartInv := false, cartRam6 := false, cartRam7 := false,
        cartPaged := false, romBank := 0, ramBank := 0 },
    ams := resetAms, cru := resetCru,
    gsq :=
      { grom := put16 (Vector.replicate 16 []) 0 (Memory.ofBytes 0 grom),
        gpop := put16 (Vector.replicate 16 false) 0 true, gaddr := 0, gphase := .two,
        gpref := Vector.replicate 16 0 } }

/-- Construction: power-on from a console ROM image, a console GROM image, the three settings and the parameters
(70_reset_and_hazards.md R262). -/
def construct (rom grom : List Byte) (ram32k ams gram : Bool) (p : Params) : State :=
  { toBlock := resetBlock .cold (freshBlock rom grom ram32k ams gram), params := p, pending := [],
    reply := Reply.none, draws := 0 }

end Sys2Proof.Machine
end

