-- ==== Sys2Proof/Machine/Cru.lean ====
section
/-! DEFINITION. The meanings of the CRU bit transactions and of the CRU's two sideband inputs (42_cru.md). -/

namespace Sys2Proof.Machine

/-- CRD.MODE (42_cru.md R181). -/
def execCrdMode (s : State) : Step := .next (s.untimed (.bit s.cru.tmode) [])

/-- CRD.T.INT (42_cru.md R182). -/
def execCrdTInt (s : State) : Step := .next (s.untimed (.bit s.cru.tint) [])

/-- CRD.T.CLK (42_cru.md R183). -/
def execCrdTClk (bit : CruBit) (s : State) : Step :=
  match s.params.timerRead with
  | .clock => .next (s.untimed (.bit (s.cru.clk.getLsbD (clkIndex bit))) [])
  | .dec => .next (s.untimed (.bit ((decReading s.cru).getLsbD (clkIndex bit))) [])
  | .draw => .next (s.draw.untimed (.bit (Config.drawBit s.draws)) [])

/-- CRD.N.VDP (42_cru.md R185). -/
def execCrdNVdp (s : State) : Step := .next (s.untimed (.bit (!s.cru.vint)) [])

/-- CRD.N.KBD (42_cru.md R184). -/
def execCrdNKbd (bit : CruBit) (s : State) : Step :=
  .next (s.draw.untimed (.bit (Config.kbdLine s.draws (kbdColumn s.cru) (kbdRow bit)))
    [.kbdLine (kbdColumn s.cru) (kbdRow bit)])

/-- CRD.TAPEIN (42_cru.md R186). -/
def execCrdTapeIn (s : State) : Step :=
  .next (s.draw.untimed (.bit (Config.tapeLevel s.draws s.cru.elapsed)) [.tapeLevel s.cru.elapsed])

/-- CRD.STORED (42_cru.md R187). -/
def execCrdStored (bit : CruBit) (s : State) : Step :=
  match s.params.unlistedCruRead with
  | .stored => .next (s.untimed (.bit (cruLine s.cru bit.toNat)) [])
  | .zero => .next (s.untimed (.bit false) [])
  | .draw => .next (s.draw.untimed (.bit (Config.drawBit s.draws)) [])

/-- CWR.MODE (42_cru.md R188). -/
def execCwrMode (v : Bool) (s : State) : Step := .next ((s.setCru { s.cru with tmode := v }).untimed .nothing [])

/-- CWR.T.CLK (42_cru.md R189). -/
def execCwrTClk (bit : CruBit) (v : Bool) (s : State) : Step :=
  .next ((s.setCru (clockWrite s.cru bit v)).untimed .nothing [])

/-- CWR.T.B15: nothing happens, whatever the value (42_cru.md R190). -/
def execCwrTB15 (_v : Bool) (s : State) : Step := .next (s.untimed .nothing [])

/-- CWR.T.EXIT: timer mode is left, then the normal-mode write is performed (42_cru.md R191). -/
def execCwrTExit (bit : CruBit) (v : Bool) (s : State) : Step :=
  .next (normalWrite bit v (s.setCru { s.cru with tmode := false }))

/-- CWR.N.ACK: the timer-interrupt enable, and the acknowledge (42_cru.md R192). -/
def execCwrNAck (v : Bool) (s : State) : Step :=
  .next ((s.setCru { storeLine s.cru 3 v with tint := false }).untimed .nothing [])

/-- CWR.N.MOTOR (42_cru.md R193). -/
def execCwrNMotor (v : Bool) (s : State) : Step := .next (motorWrite v s)

/-- CWR.N.TAPEOUT (42_cru.md R194). -/
def execCwrNTapeOut (v : Bool) (s : State) : Step := .next (tapeOutWrite v s)

/-- CWR.DSR (42_cru.md R195). -/
def execCwrDsr (bit : CruBit) (v : Bool) (s : State) : Step := .next (dsrWrite bit v s)

/-- CWR.N.STORE (42_cru.md R196). -/
def execCwrNStore (bit : CruBit) (v : Bool) (s : State) : Step := .next (storeWrite bit v s)

/-- TICK (42_cru.md R199). -/
def execTick (delta : Nat) (s : State) : Step := .next ((s.setCru (timerTick s.cru delta)).untimed .nothing [])

/-- VDPINT (42_cru.md R200). -/
def execVdpInt (level : Bool) (s : State) : Step :=
  .next ((s.setCru { s.cru with vint := level }).untimed .nothing [])

end Sys2Proof.Machine
end

