-- ==== Sys2Proof/Machine/Grom.lean ====
section
/-! DEFINITION. The meanings of the GROM port transactions (41_grom.md). -/

namespace Sys2Proof.Machine

/-- MRD.GRDATA: the latched byte, then the refill and the advance (41_grom.md R163). -/
def execMrdGrData (a : Word) (s : State) : Step :=
  .next ((s.setGsq (ginc (grefill s.gsq))).timedRead a (laneWord (at16 s.gsq.gpref (gbase s.gsq (evenAddr a)))))

/-- MRD.GRADDR: the high byte of the cursor, then the fold (41_grom.md R164). -/
def execMrdGrAddr (a : Word) (s : State) : Step :=
  .next ((s.setGsq { s.gsq with gaddr := gromFold s.params.gromAddrReadFold s.gsq.gaddr }).timedRead a
    (laneWord (hi8 s.gsq.gaddr)))

/-- MRD.GRWP (41_grom.md R165). -/
def execMrdGrWp (a : Word) (s : State) : Step := .next (s.timedRead a 0)

/-- MWR.GRRP: discarded, at the GROM-write charge (41_grom.md R166). -/
def execMwrGrRp (a _d : Word) (s : State) : Step := .next (s.timedWrite a)

/-- MWR.GRDATA (41_grom.md R167). -/
def execMwrGrData (a d : Word) (s : State) : Step :=
  .next ((s.setGsq (gromDataWrite s.decoder.gramEn s.gsq (evenAddr a) d)).timedWrite a)

/-- MWR.GRADDR (41_grom.md R168). -/
def execMwrGrAddr (a d : Word) (s : State) : Step := .next ((s.setGsq (gromAddrWrite s.gsq d)).timedWrite a)

end Sys2Proof.Machine
end

