-- ==== Sys2Proof/Machine/Snapshots.lean ====
section
/-! DEFINITION. Snapshots: what GET_STATE takes (43_host.md R218), when a snapshot is well formed (R220), and what
RESTORE_STATE installs (R219). -/

namespace Sys2Proof.Machine

/-- GPHASE as a number (10_state.md R40). -/
def phaseNat : GromPhase → Nat
  | .one => 1
  | .two => 2

/-- The snapshot of a block: the value of every state element of 10_state.md R22 to R48 (43_host.md R218). -/
def takeSnapshot (p : Params) (b : Block) : Snapshot where
  ram32kEn := some (bitNat b.decoder.ram32kEn)
  amsEn := some (bitNat b.decoder.amsEn)
  gramEn := some (bitNat b.decoder.gramEn)
  rom := some ⟨0x2000, b.decoder.rom⟩
  ram := some ⟨0x10000, b.decoder.ram⟩
  dsrImg := some b.decoder.dsrImg.toList
  dsrSel := some b.decoder.dsrSel.toNat
  dsrEn := some (bitNat b.decoder.dsrEn)
  cartImg := some b.bsc.cartImg
  cartBanks := some (cartBanks b.bsc)
  cartInv := some (bitNat b.bsc.cartInv)
  cartRam6 := some (bitNat b.bsc.cartRam6)
  cartRam7 := some (bitNat b.bsc.cartRam7)
  cartPaged := some (bitNat b.bsc.cartPaged)
  romBank := some b.bsc.romBank
  ramBank := some b.bsc.ramBank
  cartRam := some ⟨cartRamSize p, b.bsc.cartRam⟩
  amsMem := some ⟨p.amsPages * 0x1000, b.ams.mem⟩
  amsReg := some (b.ams.reg.toList.map BitVec.toNat)
  amsMode := some (bitNat b.ams.mode)
  amsAcc := some (bitNat b.ams.acc)
  grom := some (b.gsq.grom.toList.map (Image.mk 0x10000))
  gpop := some (b.gsq.gpop.toList.map bitNat)
  gaddr := some b.gsq.gaddr.toNat
  gphase := some (phaseNat b.gsq.gphase)
  gpref := some (b.gsq.gpref.toList.map BitVec.toNat)
  cruBits := some ⟨4096, b.cru.bits⟩
  tmode := some (bitNat b.cru.tmode)
  clk := some b.cru.clk.toNat
  dec := some b.cru.dec
  tint := some (bitNat b.cru.tint)
  vint := some (bitNat b.cru.vint)
  elapsed := some b.cru.elapsed

/-- An element is present and below a bound; with bound 2, a 1-bit element. -/
def presentBelow (o : Option Nat) (n : Nat) : Bool := o.any (fun x => decide (x < n))

/-- A store is present, has the size given, and is an image. -/
def presentStore (o : Option Image) (size : Nat) : Bool :=
  o.any (fun img => decide (img.size = size ∧ Image.wf img))

/-- Sixteen elements below a bound. -/
def presentBank (o : Option (List Nat)) (n : Nat) : Bool :=
  o.any (fun l => decide (l.length = 16 ∧ ∀ x ∈ l, x < n))

/-- The settings, plain stores and peripheral ROM selection of a snapshot. The one value ROM may have is the block's
own: nothing changes it after construction (10_state.md R23; log 15). -/
def decoderWellFormed (rom : Memory) (S : Snapshot) : Bool :=
  presentBelow S.ram32kEn 2 && presentBelow S.amsEn 2 && presentBelow S.gramEn 2 &&
  presentStore S.rom 0x2000 && decide (S.rom = some ⟨0x2000, rom⟩) && presentStore S.ram 0x10000 &&
  S.dsrImg.any (fun l => decide (l.length = 16 ∧ ∀ img ∈ l, Image.wf img)) &&
  presentBelow S.dsrSel 16 && presentBelow S.dsrEn 2

/-- The cartridge of a snapshot: its length is a multiple of 0x2000, CART_BANKS is that length / 0x2000, and both bank
indices are in range. -/
def bscWellFormed (p : Params) (S : Snapshot) : Bool :=
  S.cartImg.any (fun img => decide (Image.wf img ∧ img.size % 0x2000 = 0 ∧ S.cartBanks = some (img.size / 0x2000)) &&
    presentBelow S.romBank (max (img.size / 0x2000) 1)) &&
  presentBelow S.cartInv 2 && presentBelow S.cartRam6 2 && presentBelow S.cartRam7 2 && presentBelow S.cartPaged 2 &&
  presentBelow S.ramBank p.cartRamBanks && presentStore S.cartRam (cartRamSize p)

/-- The page mapper of a snapshot. -/
def amsWellFormed (p : Params) (S : Snapshot) : Bool :=
  presentStore S.amsMem (p.amsPages * 0x1000) && presentBank S.amsReg 0x10000 &&
  presentBelow S.amsMode 2 && presentBelow S.amsAcc 2

/-- The CRU of a snapshot: DEC in [0, 2^14 - 1], and at least 1 when CLK is not 0. -/
def cruWellFormed (S : Snapshot) : Bool :=
  S.cruBits.any (fun l => decide (l.width = 4096 ∧ CruLines.wf l.ones)) &&
  presentBelow S.tmode 2 && presentBelow S.clk 0x4000 &&
  S.dec.any (fun d => decide (0 ≤ d ∧ d < 0x4000 ∧ (S.clk ≠ some 0 → 1 ≤ d))) &&
  presentBelow S.tint 2 && presentBelow S.vint 2 && S.elapsed.isSome

/-- The GROM sequencer of a snapshot: GPOP[0] = 1 and GPHASE in {1, 2}. -/
def gsqWellFormed (S : Snapshot) : Bool :=
  S.grom.any (fun l => decide (l.length = 16 ∧ ∀ img ∈ l, img.size = 0x10000 ∧ Image.wf img)) &&
  presentBank S.gpop 2 && decide (S.gpop.any (fun l => l.head? = some 1)) &&
  presentBelow S.gaddr 0x10000 && decide (S.gphase = some 1 ∨ S.gphase = some 2) && presentBank S.gpref 0x100

/-- wellFormed(S) on a block with these parameters and this console ROM (43_host.md R220). DEDUCED (log 15): ROM's range
is the block's own ROM. DESIGN CHOICE (log 18): R218 puts no parameter into a snapshot, so one taken under other
parameters is told by its sizes and ranges alone. -/
def snapshotWellFormed (p : Params) (rom : Memory) (S : Snapshot) : Bool :=
  decoderWellFormed rom S && bscWellFormed p S && amsWellFormed p S && cruWellFormed S && gsqWellFormed S

/-- A 1-bit element of a snapshot. -/
def snapBit (o : Option Nat) : Bool := o == some 1

/-- The bytes of a store of a snapshot. -/
def snapStore (o : Option Image) : Memory := (o.getD Image.empty).cells

/-- A bank of sixteen elements of a snapshot. -/
def snapBank {α β : Type} (o : Option (List α)) (d : α) (f : α → β) : Vector β 16 :=
  Vector.ofFn (fun i : Fin 16 => f ((o.getD []).getD i.val d))

/-- The block a snapshot installs (43_host.md R219). It is used only of well-formed snapshots. -/
def snapshotBlock (S : Snapshot) : Block where
  decoder :=
    { ram32kEn := snapBit S.ram32kEn, amsEn := snapBit S.amsEn, gramEn := snapBit S.gramEn,
      rom := snapStore S.rom, ram := snapStore S.ram, dsrImg := snapBank S.dsrImg Image.empty id,
      dsrSel := BitVec.ofNat 4 (S.dsrSel.getD 0), dsrEn := snapBit S.dsrEn }
  bsc :=
    { cartImg := S.cartImg.getD Image.empty, cartRam := snapStore S.cartRam, cartInv := snapBit S.cartInv,
      cartRam6 := snapBit S.cartRam6, cartRam7 := snapBit S.cartRam7, cartPaged := snapBit S.cartPaged,
      romBank := S.romBank.getD 0, ramBank := S.ramBank.getD 0 }
  ams :=
    { mem := snapStore S.amsMem, reg := snapBank S.amsReg 0 (BitVec.ofNat 16), mode := snapBit S.amsMode,
      acc := snapBit S.amsAcc }
  cru :=
    { bits := (S.cruBits.getD ⟨0, []⟩).ones, tmode := snapBit S.tmode, clk := BitVec.ofNat 14 (S.clk.getD 0),
      dec := S.dec.getD 0, tint := snapBit S.tint, vint := snapBit S.vint, elapsed := S.elapsed.getD 0 }
  gsq :=
    { grom := snapBank S.grom Image.empty Image.cells, gpop := snapBank S.gpop 0 (fun x => x == 1),
      gaddr := BitVec.ofNat 16 (S.gaddr.getD 0), gphase := if S.gphase = some 1 then .one else .two,
      gpref := snapBank S.gpref 0 (BitVec.ofNat 8) }

end Sys2Proof.Machine
end

