-- ==== Sys2Proof/Machine/HostOps.lean ====
section
/-! DEFINITION. The meanings of RESET (70_reset_and_hazards.md) and of the host operations (43_host.md). -/

namespace Sys2Proof.Machine

/-- RESET (70_reset_and_hazards.md R260). -/
def execReset (kind : ResetKind) (s : State) : Step :=
  .next ((s.setBlock (resetBlock kind s.toBlock)).untimed .nothing [])

/-- LOAD_RAM (43_host.md R210). -/
def execLoadRam (a : Word) (bytes : List Byte) (s : State) : Step :=
  if bytes.isEmpty then .next (s.raise .eEmpty) else .next ((loadRamBytes a bytes s).untimed .ok [])

/-- LOAD_GROM (43_host.md R211). -/
def execLoadGrom (base : BitVec 4) (offset : Word) (bytes : List Byte) (s : State) : Step :=
  if bytes.isEmpty then .next (s.raise .eEmpty)
  else .next ((s.setGsq (populate (loadGromBytes base offset bytes s.gsq) base)).untimed .ok [])

/-- LOAD_CART (43_host.md R212). -/
def execLoadCart (bytes : List Byte) (inv ram6 ram7 paged : Bool) (s : State) : Step :=
  if bytes.isEmpty then .next (s.raise .eEmpty)
  else .next ((s.setBsc (installCart bytes inv ram6 ram7 paged)).untimed .ok [])

/-- LOAD_DSR (43_host.md R213). -/
def execLoadDsr (slot : BitVec 4) (bytes : List Byte) (s : State) : Step :=
  if bytes.isEmpty then .next (s.raise .eEmpty)
  else .next ((s.setDecoder { s.decoder with
    dsrImg := put16 s.decoder.dsrImg slot (Image.ofBytes bytes) }).untimed .ok [])

/-- SET_RAM32K (43_host.md R215). -/
def execSetRam32k (v : Bool) (s : State) : Step :=
  .next ((s.setDecoder { s.decoder with ram32kEn := v }).untimed .nothing [])

/-- SET_AMS (43_host.md R216). -/
def execSetAms (v : Bool) (s : State) : Step :=
  .next ((s.setDecoder { s.decoder with amsEn := v }).untimed .nothing [])

/-- SET_GRAM (43_host.md R217). -/
def execSetGram (v : Bool) (s : State) : Step :=
  .next ((s.setDecoder { s.decoder with gramEn := v }).untimed .nothing [])

/-- GET_STATE (43_host.md R218). -/
def execGetState (s : State) : Step := .next (s.untimed (.snapshot (takeSnapshot s.params s.toBlock)) [])

/-- RESTORE_STATE (43_host.md R219). It leaves ROM as it was (10_state.md R23; log 15). -/
def execRestoreState (snap : Snapshot) (s : State) : Step :=
  if snapshotWellFormed s.params s.decoder.rom snap then .next ((s.setBlock (snapshotBlock snap)).untimed .ok [])
  else .next (s.raise .eSnapshot)

/-- DBG_RDB (43_host.md R222). -/
def execDbgRdb (a : Word) (s : State) : Step := .next (s.untimed (.byte (debugByte s a)) [])

/-- DBG_RDW (43_host.md R221). -/
def execDbgRdw (a : Word) (s : State) : Step := .next (s.untimed (.word (debugWord s (evenAddr a))) [])

/-- STATUS: a text that is a function of the six elements R225 names (43_host.md R225; log 11). -/
def execStatus (s : State) : Step :=
  .next (s.untimed (.text (Config.statusText s.gsq.gaddr s.bsc.romBank s.bsc.ramBank s.ams.reg s.ams.mode s.ams.acc))
    [])

end Sys2Proof.Machine
end

