-- ==== Sys2Proof/Machine/MemReads.lean ====
section
/-! DEFINITION. The meanings of the timed memory reads (40_bus_memory.md). -/

namespace Sys2Proof.Machine

/-- MRD.ROM (40_bus_memory.md R111). -/
def execMrdRom (a : Word) (s : State) : Step := .next (s.timedRead a (romWord s.decoder (evenAddr a)))

/-- MRD.LORAM (40_bus_memory.md R113). -/
def execMrdLoram (a : Word) (s : State) : Step := .next (s.timedRead a (ramRead16 s (evenAddr a)))

/-- MRD.PERIPH (40_bus_memory.md R117). -/
def execMrdPeriph (a : Word) (s : State) : Step := .next (s.timedRead a (periphWord s (evenAddr a)))

/-- MRD.CART (40_bus_memory.md R128). -/
def execMrdCart (a : Word) (s : State) : Step := .next (s.timedRead a (cartWord s.bsc (evenAddr a)))

/-- MRD.PAD (40_bus_memory.md R126). -/
def execMrdPad (a : Word) (s : State) : Step := .next (s.timedRead a (padWord s.decoder a))

/-- MRD.SOUND: the port is write-only and reads 0x0000 (40_bus_memory.md R130). -/
def execMrdSound (a : Word) (s : State) : Step := .next (s.timedRead a 0)

/-- MRD.GAP (40_bus_memory.md R132). -/
def execMrdGap (a : Word) (s : State) : Step := .next (s.timedRead a 0)

/-- MRD.VDPDATA (40_bus_memory.md R134). -/
def execMrdVdpData (a : Word) (s : State) : Step :=
  .next (s.draw.timed false a (.word (laneWord (Config.vdpReadData s.draws))) [.vdpReadData])

/-- MRD.VDPSTAT (40_bus_memory.md R135). -/
def execMrdVdpStat (a : Word) (s : State) : Step :=
  .next (s.draw.timed false a (.word (laneWord (Config.vdpReadStatus s.draws))) [.vdpReadStatus])

/-- MRD.VDPWP (40_bus_memory.md R136). -/
def execMrdVdpWp (a : Word) (s : State) : Step := .next (s.timedRead a 0)

/-- MRD.SPCH (40_bus_memory.md R140). -/
def execMrdSpch (a : Word) (s : State) : Step :=
  .next (s.draw.timed false a (.word (laneWord (Config.speechReadData s.draws))) [.speechReadData])

/-- MRD.SPCHWP (40_bus_memory.md R141). -/
def execMrdSpchWp (a : Word) (s : State) : Step := .next (s.timedRead a 0)

/-- MRD.HIRAM (40_bus_memory.md R115). -/
def execMrdHiram (a : Word) (s : State) : Step := .next (s.timedRead a (ramRead16 s (evenAddr a)))

end Sys2Proof.Machine
end

