-- ==== Sys2Proof/Machine/MemWrites.lean ====
section
/-! DEFINITION. The meanings of the timed memory writes (40_bus_memory.md). -/

namespace Sys2Proof.Machine

/-- MWR.ROM: discarded (40_bus_memory.md R112). -/
def execMwrRom (a _d : Word) (s : State) : Step := .next (s.timedWrite a)

/-- MWR.LORAM (40_bus_memory.md R114). -/
def execMwrLoram (a d : Word) (s : State) : Step := .next ((ramWrite16 s (evenAddr a) d).timedWrite a)

/-- MWR.PERIPH (40_bus_memory.md R118). -/
def execMwrPeriph (a d : Word) (s : State) : Step := .next ((periphWrite s (evenAddr a) d).timedWrite a)

/-- MWR.CART (40_bus_memory.md R129). -/
def execMwrCart (a d : Word) (s : State) : Step :=
  .next ((s.setBsc (cartWrite s.params s.bsc (evenAddr a) d)).timedWrite a)

/-- MWR.PAD (40_bus_memory.md R127). -/
def execMwrPad (a d : Word) (s : State) : Step := .next ((s.setDecoder (setPadWord s.decoder a d)).timedWrite a)

/-- MWR.SOUND (40_bus_memory.md R131). -/
def execMwrSound (a d : Word) (s : State) : Step := .next (s.timed true a .nothing [.soundWriteData (laneByte d)])

/-- MWR.GAP: discarded (40_bus_memory.md R133). -/
def execMwrGap (a _d : Word) (s : State) : Step := .next (s.timedWrite a)

/-- MWR.VDPRP: discarded (40_bus_memory.md R137). -/
def execMwrVdpRp (a _d : Word) (s : State) : Step := .next (s.timedWrite a)

/-- MWR.VDPDATA (40_bus_memory.md R138). -/
def execMwrVdpData (a d : Word) (s : State) : Step := .next (s.timed true a .nothing [.vdpWriteData (laneByte d)])

/-- MWR.VDPADDR (40_bus_memory.md R139). -/
def execMwrVdpAddr (a d : Word) (s : State) : Step := .next (s.timed true a .nothing [.vdpWriteAddress (laneByte d)])

/-- MWR.SPCHRP: discarded (40_bus_memory.md R142). -/
def execMwrSpchRp (a _d : Word) (s : State) : Step := .next (s.timedWrite a)

/-- MWR.SPCH (40_bus_memory.md R143). -/
def execMwrSpch (a d : Word) (s : State) : Step := .next (s.timed true a .nothing [.speechWriteData (laneByte d)])

/-- MWR.HIRAM (40_bus_memory.md R116). -/
def execMwrHiram (a d : Word) (s : State) : Step := .next ((ramWrite16 s (evenAddr a) d).timedWrite a)

end Sys2Proof.Machine
end

