-- ==== Sys2Proof/Machine/Dispatch.lean ====
section
/-! DEFINITION. The dispatcher: one arm for each transaction, one direct call of its meaning. -/

namespace Sys2Proof.Machine

def exec (i : Instr) (s : State) : Host.Outcome State Fault Refusal :=
  match i with
  | .mrdRom a => Sys2Proof.Machine.execMrdRom a s
  | .mrdLoram a => Sys2Proof.Machine.execMrdLoram a s
  | .mrdPeriph a => Sys2Proof.Machine.execMrdPeriph a s
  | .mrdCart a => Sys2Proof.Machine.execMrdCart a s
  | .mrdPad a => Sys2Proof.Machine.execMrdPad a s
  | .mrdSound a => Sys2Proof.Machine.execMrdSound a s
  | .mrdGap a => Sys2Proof.Machine.execMrdGap a s
  | .mrdVdpData a => Sys2Proof.Machine.execMrdVdpData a s
  | .mrdVdpStat a => Sys2Proof.Machine.execMrdVdpStat a s
  | .mrdVdpWp a => Sys2Proof.Machine.execMrdVdpWp a s
  | .mrdSpch a => Sys2Proof.Machine.execMrdSpch a s
  | .mrdSpchWp a => Sys2Proof.Machine.execMrdSpchWp a s
  | .mrdGrData a => Sys2Proof.Machine.execMrdGrData a s
  | .mrdGrAddr a => Sys2Proof.Machine.execMrdGrAddr a s
  | .mrdGrWp a => Sys2Proof.Machine.execMrdGrWp a s
  | .mrdHiram a => Sys2Proof.Machine.execMrdHiram a s
  | .mwrRom a d => Sys2Proof.Machine.execMwrRom a d s
  | .mwrLoram a d => Sys2Proof.Machine.execMwrLoram a d s
  | .mwrPeriph a d => Sys2Proof.Machine.execMwrPeriph a d s
  | .mwrCart a d => Sys2Proof.Machine.execMwrCart a d s
  | .mwrPad a d => Sys2Proof.Machine.execMwrPad a d s
  | .mwrSound a d => Sys2Proof.Machine.execMwrSound a d s
  | .mwrGap a d => Sys2Proof.Machine.execMwrGap a d s
  | .mwrVdpRp a d => Sys2Proof.Machine.execMwrVdpRp a d s
  | .mwrVdpData a d => Sys2Proof.Machine.execMwrVdpData a d s
  | .mwrVdpAddr a d => Sys2Proof.Machine.execMwrVdpAddr a d s
  | .mwrSpchRp a d => Sys2Proof.Machine.execMwrSpchRp a d s
  | .mwrSpch a d => Sys2Proof.Machine.execMwrSpch a d s
  | .mwrGrRp a d => Sys2Proof.Machine.execMwrGrRp a d s
  | .mwrGrData a d => Sys2Proof.Machine.execMwrGrData a d s
  | .mwrGrAddr a d => Sys2Proof.Machine.execMwrGrAddr a d s
  | .mwrHiram a d => Sys2Proof.Machine.execMwrHiram a d s
  | .crdMode => Sys2Proof.Machine.execCrdMode s
  | .crdTInt => Sys2Proof.Machine.execCrdTInt s
  | .crdTClk bit => Sys2Proof.Machine.execCrdTClk bit s
  | .crdNVdp => Sys2Proof.Machine.execCrdNVdp s
  | .crdNKbd bit => Sys2Proof.Machine.execCrdNKbd bit s
  | .crdTapeIn => Sys2Proof.Machine.execCrdTapeIn s
  | .crdStored bit => Sys2Proof.Machine.execCrdStored bit s
  | .cwrMode v => Sys2Proof.Machine.execCwrMode v s
  | .cwrTClk bit v => Sys2Proof.Machine.execCwrTClk bit v s
  | .cwrTB15 v => Sys2Proof.Machine.execCwrTB15 v s
  | .cwrTExit bit v => Sys2Proof.Machine.execCwrTExit bit v s
  | .cwrNAck v => Sys2Proof.Machine.execCwrNAck v s
  | .cwrNMotor v => Sys2Proof.Machine.execCwrNMotor v s
  | .cwrNTapeOut v => Sys2Proof.Machine.execCwrNTapeOut v s
  | .cwrDsr bit v => Sys2Proof.Machine.execCwrDsr bit v s
  | .cwrNStore bit v => Sys2Proof.Machine.execCwrNStore bit v s
  | .tick delta => Sys2Proof.Machine.execTick delta s
  | .vdpInt level => Sys2Proof.Machine.execVdpInt level s
  | .reset kind => Sys2Proof.Machine.execReset kind s
  | .loadRam a bytes => Sys2Proof.Machine.execLoadRam a bytes s
  | .loadGrom base offset bytes => Sys2Proof.Machine.execLoadGrom base offset bytes s
  | .loadCart bytes inv ram6 ram7 paged => Sys2Proof.Machine.execLoadCart bytes inv ram6 ram7 paged s
  | .loadDsr slot bytes => Sys2Proof.Machine.execLoadDsr slot bytes s
  | .setRam32k v => Sys2Proof.Machine.execSetRam32k v s
  | .setAms v => Sys2Proof.Machine.execSetAms v s
  | .setGram v => Sys2Proof.Machine.execSetGram v s
  | .getState => Sys2Proof.Machine.execGetState s
  | .restoreState snap => Sys2Proof.Machine.execRestoreState snap s
  | .dbgRdb a => Sys2Proof.Machine.execDbgRdb a s
  | .dbgRdw a => Sys2Proof.Machine.execDbgRdw a s
  | .status => Sys2Proof.Machine.execStatus s

end Sys2Proof.Machine
end

