-- ==== Sys2Proof/Machine/Issue.lean ====
section
/-! DEFINITION. How the block takes its next transaction: the caller's key, with the CRU mode in K[12] (30_encoding.md
R91), and the refusal of what has no meaning (60_exceptions.md R242). -/

namespace Sys2Proof.Machine

/-- The key the block decodes: for a CRU transaction K[12] is TMODE when the transaction begins, whatever the caller
put there (30_encoding.md R91). -/
def keyInMode (k : Key) (tmode : Bool) : Key :=
  if Key.isCru k then BitVec.ofNat 19 (k.toNat / 0x2000 * 0x2000 + bitNat tmode * 0x1000 + k.toNat % 0x1000) else k

/-- A transaction as the block decodes it in its present mode. -/
def issue (t : Txn) (tmode : Bool) : Txn := { t with key := keyInMode t.key tmode }

/-- The refusal of a transaction that does not decode (60_exceptions.md R242). -/
def refusalOf : DecodeError → Refusal
  | .unusedSidebandId id => .unusedSidebandId id
  | .operandOutOfType m => .operandOutOfType m

/-- The mode in which a key means the row it spells: K[12] for a CRU key; another key leaves the mode alone. -/
def modeForKey (k : Key) (tmode : Bool) : Bool := if Key.isCru k then k.toNat / 0x1000 % 2 == 1 else tmode

end Sys2Proof.Machine
end

