-- ==== Sys2Proof/Machine/Step.lean ====
section
/-! DEFINITION. One step: the oldest pending transaction is taken, decoded and performed, as one indivisible step
(20_memory.md R72). -/

namespace Sys2Proof.Machine

/-- A transaction decoded and performed; one that does not decode is refused (60_exceptions.md R242). -/
def perform (t : Txn) (s : State) : Host.Outcome State Fault Refusal :=
  match decode t with
  | .ok i => exec i s
  | .error e => .refused (refusalOf e)

/-- The step. With no transaction pending the block keeps its state: it has no halt and no event of its own
(70_reset_and_hazards.md R283, 60_exceptions.md R254; log 8). -/
def step (s : State) : Host.Outcome State Fault Refusal :=
  match s.pending with
  | [] => .next s
  | t :: rest => perform (issue t s.cru.tmode) { s with pending := rest }

/-- The state in which the caller has issued the transaction whose key is the number w, with no operand beside it,
before every other. A CRU key means its row only in the mode its K[12] gives, so that mode is set (log 7). -/
def State.withFetchWord (s : State) (_nbits w : Nat) : State :=
  let t := Txn.ofKey (BitVec.ofNat 19 w)
  { s with pending := t :: s.pending, cru := { s.cru with tmode := modeForKey t.key s.cru.tmode } }

end Sys2Proof.Machine
end

