-- ==== Sys2Proof/Safety.lean ====
section
/-! DEFINITION. The terms claims use: the invariant of the machine, the observation of a run, the keys of a row, the
cells of a load and the sequences of transactions the spec's derived rules speak of. -/

namespace Sys2Proof.Machine

/-- A block is well formed (10_state.md R22 to R48, 43_host.md R220): every store canonical and inside its size, every
index in range, GPOP[0] = 1, and DEC as R45 says it is outside a step. -/
structure BlockInv (p : Params) (b : Block) : Prop where
  rom     : Memory.wf b.decoder.rom ∧ Memory.within b.decoder.rom 0x2000
  ram     : Memory.wf b.decoder.ram ∧ Memory.within b.decoder.ram 0x10000
  dsrImg  : ∀ i : Fin 16, Image.wf b.decoder.dsrImg[i]
  cartImg : Image.wf b.bsc.cartImg ∧ b.bsc.cartImg.size % 0x2000 = 0
  cartRam : Memory.wf b.bsc.cartRam ∧ Memory.within b.bsc.cartRam (cartRamSize p)
  romBank : b.bsc.romBank < max (cartBanks b.bsc) 1
  ramBank : b.bsc.ramBank < p.cartRamBanks
  amsMem  : Memory.wf b.ams.mem ∧ Memory.within b.ams.mem (p.amsPages * 0x1000)
  grom    : ∀ i : Fin 16, Memory.wf b.gsq.grom[i] ∧ Memory.within b.gsq.grom[i] 0x10000
  gpop    : b.gsq.gpop[0] = true
  bits    : CruLines.wf b.cru.bits
  dec     : 0 ≤ b.cru.dec ∧ b.cru.dec < 0x4000 ∧ (b.cru.clk ≠ 0 → 1 ≤ b.cru.dec)

/-- The invariant: the parameters meet 00_scope.md R9 and the block is well formed. -/
structure State.Inv (s : State) : Prop where
  params : Params.wf s.params
  block  : BlockInv s.params s.toBlock

/-- A run of transactions and what it shows, or its first refusal: the replies in order, and the state after the last
transaction (70_reset_and_hazards.md R283). -/
def observe : List Txn → State → Host.Outcome (List Reply × State) Fault Refusal
  | [], s => .next ([], s)
  | t :: ts, s =>
    match step { s with pending := [t] } with
    | .next s' =>
      match observe ts s' with
      | .next (rs, u) => .next (s'.reply :: rs, u)
      | .fault r => .fault r
      | .refused r => .refused r
    | .fault r => .fault r
    | .refused r => .refused r

/-- A run is safe when no transaction of it is refused (70_reset_and_hazards.md R284). -/
def SafeRun (ts : List Txn) (s : State) : Prop := ∃ o, observe ts s = .next o

/-- Instructions performed one after another, each with its reply, and the state after the last. -/
def trace : List Instr → State → Host.Outcome (List (Instr × Reply) × State) Fault Refusal
  | [], s => .next ([], s)
  | i :: is, s =>
    match exec i s with
    | .next s' =>
      match trace is s' with
      | .next (rs, u) => .next ((i, s'.reply) :: rs, u)
      | .fault r => .fault r
      | .refused r => .refused r
    | .fault r => .fault r
    | .refused r => .refused r

/-- Instructions performed one after another. -/
def execAll : List Instr → State → Host.Outcome State Fault Refusal
  | [], s => .next s
  | i :: is, s =>
    match exec i s with
    | .next s' => execAll is s'
    | .fault r => .fault r
    | .refused r => .refused r

/-! ### Pseudo-operations (30_encoding.md R104) -/

/-- GSETADDR a: the two address-port writes, high byte first. -/
def gsetaddr (a : Word) : List Instr :=
  [.mwrGrAddr 0x9C02 (be16 (hi8 a) 0), .mwrGrAddr 0x9C02 (be16 (lo8 a) 0)]

/-- TIMERSET n: timer mode entered, the fourteen bits of n written, timer mode left by bit 16. -/
def timerset (n : BitVec 14) : List Instr :=
  [.cwrMode true] ++ (List.range 14).map (fun k => .cwrTClk (BitVec.ofNat 12 (k + 1)) (n.getLsbD k)) ++
    [.cwrTExit 16 false]

/-! ### Keys of a row -/

/-- Every transaction whose key a read row's mask and match select decodes to the row, at the even address. -/
def ReadKeys (mask pattern : Nat) (mk : Word → Instr) : Prop :=
  ∀ t : Txn, t.key.toNat &&& mask = pattern → decode t = .ok (mk (evenAddr t.addr))

/-- The same for a write row, with the word D its operands carry. -/
def WriteKeys (mask pattern : Nat) (mk : Word → Word → Instr) : Prop :=
  ∀ t : Txn, t.key.toNat &&& mask = pattern → decode t = .ok (mk (evenAddr t.addr) (BitVec.ofNat 16 (t.scalar 0)))

/-- Every transaction of op 2 in a CRU mode, with a bit in [lo, hi], decodes to a read row. -/
def CruReadKeys (mode : Bool) (lo hi : Nat) (mk : CruBit → Instr) : Prop :=
  ∀ t : Txn, t.key.toNat / 0x10000 = 2 → t.key.getLsbD 12 = mode → lo ≤ t.cruBit.toNat → t.cruBit.toNat ≤ hi →
    decode t = .ok (mk t.cruBit)

/-- Every transaction of op 3 in a CRU mode, with a bit in [lo, hi], decodes to a write row. -/
def CruWriteKeys (mode : Bool) (lo hi : Nat) (mk : CruBit → Bool → Instr) : Prop :=
  ∀ t : Txn, t.key.toNat / 0x10000 = 3 → t.key.getLsbD 12 = mode → lo ≤ t.cruBit.toNat → t.cruBit.toNat ≤ hi →
    decode t = .ok (mk t.cruBit t.cruData)

/-! ### The targets of LOAD_RAM -/

/-- A byte cell a load may store to: of RAM, of AMS_MEM or of CART_RAM. -/
inductive StoreCell where
  | ram (i : Nat)
  | ams (i : Nat)
  | cartRam (i : Nat)
  deriving DecidableEq, Repr

/-- The byte a cell holds. -/
def cellByte (s : State) : StoreCell → Byte
  | .ram i => Memory.read s.decoder.ram i
  | .ams i => Memory.read s.ams.mem i
  | .cartRam i => Memory.read s.bsc.cartRam i

/-- The cell that a byte loaded at an address goes to, if any (43_host.md R210). -/
def loadTarget (s : State) (t : Word) : Option StoreCell :=
  match region t with
  | .loram | .hiram =>
    if s.decoder.amsEn then (amsPhys s.params s.ams t).map .ams
    else if s.decoder.ram32kEn then some (.ram t.toNat)
    else none
  | .cart =>
    if ramSeated s.bsc (evenAddr t) then some (.cartRam (cartRamIdx s.bsc (evenAddr t) + t.toNat % 2)) else none
  | .pad => some (.ram (t ||| 0x0300).toNat)
  | .rom | .periph | .sound | .gap | .vdp | .speech | .grom => none

/-- The last index below n that meets a test. -/
def lastIndex (n : Nat) (p : Nat → Bool) : Option Nat := ((List.range n).filter p).getLast?

/-! ### Classes of transactions -/

/-- The host's debug surface: GET_STATE, DBG_RDB, DBG_RDW, STATUS (60_exceptions.md R253). -/
def isDebug : Instr → Bool
  | .getState | .dbgRdb _ | .dbgRdw _ | .status => true
  | _ => false

/-- The timed reads: every MRD row (40_bus_memory.md R110). -/
def isTimedRead (i : Instr) : Bool := (encode i).key.toNat / 0x10000 == 0

/-- The timed writes: every MWR row (40_bus_memory.md R110). -/
def isTimedWrite (i : Instr) : Bool := (encode i).key.toNat / 0x10000 == 1

/-- The address of a timed transaction. -/
def timedAddr (i : Instr) : Word := (encode i).addr

end Sys2Proof.Machine
end

