-- ==== Sys2Proof/Certificates/Slice0/Obligations.lean ====
section
/-! DEFINITION. The statements for the provers. Each says in its docstring which rule or section of spec/ it formalises.
A reply is written ⟨value, cycles, device calls, error⟩ (log 2). -/

open Sys2Proof Sys2Proof.Machine

/-! ### Encoding and decoding -/

/-- A few keys of every family, written out from the tables of 30_encoding.md section 3.3, decode to the instructions
they stand for; an unused sideband id decodes to none. -/
def Obligations.SpelledKeysDecode : Prop :=
  decodeTableWord 24 0x00001 = some (.mrdRom 0x0000) ∧
  decodeTableWord 24 0x08BFE = some (.mrdVdpStat 0x8BFE) ∧
  decodeTableWord 24 0x0FFFF = some (.mrdHiram 0xFFFE) ∧
  decodeTableWord 24 0x19C00 = some (.mwrGrData 0x9C00 0) ∧
  decodeTableWord 24 0x14014 = some (.mwrPeriph 0x4014 0) ∧
  decodeTableWord 24 0x2100F = some .crdTInt ∧
  decodeTableWord 24 0x2000F = some (.crdStored 15) ∧
  decodeTableWord 24 0x31F00 = some (.cwrTExit 0xF00 false) ∧
  decodeTableWord 24 0x30F00 = some (.cwrDsr 0xF00 false) ∧
  decodeTableWord 24 0x40000 = some (.tick 0) ∧
  decodeTableWord 24 0x4E000 = some .status ∧
  decodeTableWord 24 0x4F000 = none

/-- Decode and encode agree on every well-formed instruction: every operand at every value its row admits. -/
def Obligations.DecodeOfEncode : Prop :=
  ∀ i : Instr, i.wf = true → decode (encode i) = .ok i

/-- R97: the row of every memory key, by the region of the even address and, in the port regions, by A10 and A1. -/
def Obligations.MemoryKeyRows : Prop :=
  ∀ t : Txn, ∀ E : Word, E = evenAddr t.addr →
    (t.key.toNat / 0x10000 = 0 →
      decode t = .ok
        (match region E with
        | .rom => .mrdRom E
        | .loram => .mrdLoram E
        | .periph => .mrdPeriph E
        | .cart => .mrdCart E
        | .pad => .mrdPad E
        | .sound => .mrdSound E
        | .gap => .mrdGap E
        | .vdp => if E.getLsbD 10 then .mrdVdpWp E else if E.getLsbD 1 then .mrdVdpStat E else .mrdVdpData E
        | .speech => if E.getLsbD 10 then .mrdSpchWp E else .mrdSpch E
        | .grom => if E.getLsbD 10 then .mrdGrWp E else if E.getLsbD 1 then .mrdGrAddr E else .mrdGrData E
        | .hiram => .mrdHiram E)) ∧
    (∀ D : Word, D = BitVec.ofNat 16 (t.scalar 0) → t.key.toNat / 0x10000 = 1 →
      decode t = .ok
        (match region E with
        | .rom => .mwrRom E D
        | .loram => .mwrLoram E D
        | .periph => .mwrPeriph E D
        | .cart => .mwrCart E D
        | .pad => .mwrPad E D
        | .sound => .mwrSound E D
        | .gap => .mwrGap E D
        | .vdp => if E.getLsbD 10 then (if E.getLsbD 1 then .mwrVdpAddr E D else .mwrVdpData E D) else .mwrVdpRp E D
        | .speech => if E.getLsbD 10 then .mwrSpch E D else .mwrSpchRp E D
        | .grom => if E.getLsbD 10 then (if E.getLsbD 1 then .mwrGrAddr E D else .mwrGrData E D) else .mwrGrRp E D
        | .hiram => .mwrHiram E D))

/-- R98: the row of every CRU key, by the bit and by M = K[12]; K[15:13] never matter. -/
def Obligations.CruKeyRows : Prop :=
  ∀ t : Txn, ∀ bit : CruBit, bit = BitVec.ofNat 12 t.key.toNat →
    (t.key.toNat / 0x10000 = 2 →
      decode t = .ok
        (if bit = 0 then .crdMode
        else if bit = 27 then .crdTapeIn
        else if t.key.getLsbD 12 then
          (if bit = 15 then .crdTInt else if bit.toNat ≤ 14 then .crdTClk bit else .crdStored bit)
        else
          (if bit = 2 then .crdNVdp
          else if 3 ≤ bit.toNat ∧ bit.toNat ≤ 10 then .crdNKbd bit else .crdStored bit))) ∧
    (∀ v : Bool, v = (t.scalar 0 % 2 == 1) → t.key.toNat / 0x10000 = 3 →
      decode t = .ok
        (if bit = 0 then .cwrMode v
        else if t.key.getLsbD 12 then
          (if bit = 15 then .cwrTB15 v else if bit.toNat ≤ 14 then .cwrTClk bit v else .cwrTExit bit v)
        else
          (if bit = 3 then .cwrNAck v
          else if bit = 22 then .cwrNMotor v
          else if bit = 25 then .cwrNTapeOut v
          else if 2048 ≤ bit.toNat then .cwrDsr bit v else .cwrNStore bit v)))

/-- The row and operands of every sideband key, by its id K[17:12], with operands in the types of the table of
30_encoding.md section 3.3 (R99). How operands travel beside the key, and RESET's kinds as 0 and 1, are the model's (log
6). -/
def Obligations.SidebandKeyRows : Prop :=
  ∀ t : Txn, ∀ id : Nat, t.key.toNat = 0x40000 + id * 0x1000 →
    (id = 0 → decode t = .ok (.tick (t.scalar 0))) ∧
    (id = 1 → ∀ v : Bool, t.scalar 0 = v.toNat → decode t = .ok (.vdpInt v)) ∧
    (id = 2 → (t.scalar 0 = 0 → decode t = .ok (.reset .cold)) ∧ (t.scalar 0 = 1 → decode t = .ok (.reset .warm))) ∧
    (id = 3 → ∀ (a : Word) (bs : List Byte), t.scalar 0 = a.toNat → t.bytes = bs.map BitVec.toNat →
      decode t = .ok (.loadRam a bs)) ∧
    (id = 4 → ∀ (b : BitVec 4) (o : Word) (bs : List Byte), t.scalar 0 = b.toNat → t.scalar 1 = o.toNat →
      t.bytes = bs.map BitVec.toNat → decode t = .ok (.loadGrom b o bs)) ∧
    (id = 5 → ∀ (bs : List Byte) (inv ram6 ram7 paged : Bool), t.bytes = bs.map BitVec.toNat →
      t.scalar 0 = inv.toNat → t.scalar 1 = ram6.toNat → t.scalar 2 = ram7.toNat → t.scalar 3 = paged.toNat →
      decode t = .ok (.loadCart bs inv ram6 ram7 paged)) ∧
    (id = 6 → ∀ (n : BitVec 4) (bs : List Byte), t.scalar 0 = n.toNat → t.bytes = bs.map BitVec.toNat →
      decode t = .ok (.loadDsr n bs)) ∧
    (id = 7 → ∀ v : Bool, t.scalar 0 = v.toNat → decode t = .ok (.setRam32k v)) ∧
    (id = 8 → ∀ v : Bool, t.scalar 0 = v.toNat → decode t = .ok (.setAms v)) ∧
    (id = 9 → ∀ v : Bool, t.scalar 0 = v.toNat → decode t = .ok (.setGram v)) ∧
    (id = 10 → decode t = .ok .getState) ∧
    (id = 11 → decode t = .ok (.restoreState t.snap)) ∧
    (id = 12 → ∀ a : Word, t.scalar 0 = a.toNat → decode t = .ok (.dbgRdb a)) ∧
    (id = 13 → ∀ a : Word, t.scalar 0 = a.toNat → decode t = .ok (.dbgRdw a)) ∧
    (id = 14 → decode t = .ok .status) ∧
    (15 ≤ id → decode t = .error (.unusedSidebandId id))

/-- R61: address bit A0 never selects anything: a memory transaction does exactly what it does at A & 0xFFFE, and goes
on. -/
def Obligations.OddAddressActsAsEven : Prop :=
  ∀ (s : State) (t : Txn) (rest : List Txn), t.key.toNat < 0x20000 →
    step { s with pending := t :: rest } = step { s with pending := { t with key := t.key &&& 0x7FFFE } :: rest } ∧
    ∃ u, step { s with pending := t :: rest } = .next u

/-! ### The step -/

/-- A step takes the oldest pending transaction, puts TMODE into K[12] of a CRU key, and, where it decodes to a
well-formed instruction, is exec of that instruction with the queue advanced (log 1; 30_encoding.md sections 3.1,
3.3). -/
def Obligations.StepRunsDecoded : Prop :=
  ∀ (s : State) (t : Txn) (rest : List Txn) (i : Instr), s.pending = t :: rest →
    decode
      { t with
        key := if t.key.toNat / 0x20000 = 1 then
            (if s.cru.tmode then t.key ||| 0x01000 else t.key &&& 0x7EFFF) else t.key } = .ok i →
    i.wf = true → step s = exec i { s with pending := rest }

/-- The step refuses exactly the sideband keys of ids 15 to 63 and the operands outside their types; it never faults
(60_exceptions.md section 7.1, R242). How operands travel beside the key is the model's (log 6). -/
def Obligations.RefusesExactlyTheMeaningless : Prop :=
  ∀ (s : State) (t : Txn) (rest : List Txn), s.pending = t :: rest → ∀ id : Nat, id = t.key.toNat / 0x1000 % 64 →
    ((∃ r, step s = .refused r) ↔
      0x40000 ≤ t.key.toNat ∧
        (15 ≤ id ∨
          (id ∈ [1, 2, 7, 8, 9] ∧ 2 ≤ t.scalar 0) ∨
          (id ∈ [3, 12, 13] ∧ 0x10000 ≤ t.scalar 0) ∨
          (id ∈ [4, 6] ∧ 16 ≤ t.scalar 0) ∨
          (id = 4 ∧ 0x10000 ≤ t.scalar 1) ∨
          (id = 5 ∧ (2 ≤ t.scalar 0 ∨ 2 ≤ t.scalar 1 ∨ 2 ≤ t.scalar 2 ∨ 2 ≤ t.scalar 3)) ∨
          (id ∈ [3, 4, 5, 6] ∧ ∃ b ∈ t.bytes, 256 ≤ b))) ∧
    ∀ f, step s ≠ .fault f

/-- R241: every MRD, MWR, CRD, CWR, TICK and VDPINT transaction completes, in every state and at every address or bit,
with no error. -/
def Obligations.BusNeverFaults : Prop :=
  ∀ (s : State) (t : Txn) (rest : List Txn), s.pending = t :: rest →
    (t.key.toNat < 0x40000 ∨ t.key.toNat / 0x1000 = 0x40 ∨ (t.key.toNat / 0x1000 = 0x41 ∧ t.scalar 0 < 2)) →
    ∃ u, step s = .next u ∧ u.pending = rest ∧ u.reply.error = none

/-! ### Timed memory reads -/

/-- R111, R126: the console ROM and the scratchpad. -/
def Obligations.RomAndPadReads : Prop :=
  ReadKeys 0x7E000 0x00000 .mrdRom ∧
  (∀ (a : Word) (s : State), a.toNat < 0x2000 → ∀ E : Nat, E = a.toNat / 2 * 2 →
    exec (.mrdRom a) s = .next { s with
      reply := ⟨.word (be16 (Memory.read s.decoder.rom E) (Memory.read s.decoder.rom (E + 1))), s.params.waitDefault,
        [], none⟩ }) ∧
  ReadKeys 0x7FC00 0x08000 .mrdPad ∧
  (∀ (a : Word) (s : State), 0x8000 ≤ a.toNat → a.toNat < 0x8400 → ∀ p : Nat, p = 0x8300 + a.toNat % 0x100 / 2 * 2 →
    exec (.mrdPad a) s = .next { s with
      reply := ⟨.word (be16 (Memory.read s.decoder.ram p) (Memory.read s.decoder.ram (p + 1))), s.params.waitDefault,
        [], none⟩ })

/-- R113, R115: low and high RAM, through AMS, the 32 KiB RAM, or nothing. -/
def Obligations.RamReads : Prop :=
  ReadKeys 0x7E000 0x02000 .mrdLoram ∧
  (∀ t : Txn, t.key.toNat &&& 0x78000 = 0x08000 → 0xA000 ≤ t.addr.toNat →
    decode t = .ok (.mrdHiram (evenAddr t.addr))) ∧
  ∀ (a : Word) (s : State) (i : Instr),
    (i = .mrdLoram a ∧ 0x2000 ≤ a.toNat ∧ a.toNat < 0x4000) ∨ (i = .mrdHiram a ∧ 0xA000 ≤ a.toNat) →
    ∀ E : Word, E = evenAddr a →
    exec i s = .next { s with
      reply := ⟨.word
        (if s.decoder.amsEn then be16 (amsGet s.params s.ams E) (amsGet s.params s.ams (E + 1))
        else if s.decoder.ram32kEn then
          be16 (Memory.read s.decoder.ram E.toNat) (Memory.read s.decoder.ram (E.toNat + 1))
        else 0), s.params.waitDefault, [], none⟩ }

/-- R117: the peripheral window shows the AMS registers, byte-swapped, or the selected peripheral ROM, or zero. -/
def Obligations.PeriphReads : Prop :=
  ReadKeys 0x7E000 0x04000 .mrdPeriph ∧
  ∀ (a : Word) (s : State), 0x4000 ≤ a.toNat → a.toNat < 0x6000 → ∀ E : Nat, E = a.toNat / 2 * 2 →
    exec (.mrdPeriph a) s = .next { s with
      reply := ⟨.word
        (if s.decoder.amsEn ∧ s.ams.acc then swap16 (at16 s.ams.reg (BitVec.ofNat 4 (E / 2)))
        else if s.decoder.dsrEn then
          be16 (Image.byte (at16 s.decoder.dsrImg s.decoder.dsrSel) (E - 0x4000))
            (Image.byte (at16 s.decoder.dsrImg s.decoder.dsrSel) (E - 0x4000 + 1))
        else 0), s.params.waitDefault, [], none⟩ }

/-- R128, with the seat of R121 and the reads of R122 and R123: a half answers from CART_RAM where RAM is seated, else
from the current bank of CART_IMG. -/
def Obligations.CartReads : Prop :=
  ReadKeys 0x7E000 0x06000 .mrdCart ∧
  ∀ (a : Word) (s : State), 0x6000 ≤ a.toNat → a.toNat < 0x8000 → ∀ E : Nat, E = a.toNat / 2 * 2 →
    ∀ idx : Nat, idx = (if 0x7000 ≤ E ∧ s.bsc.cartPaged ∧ s.bsc.cartRam7 then s.bsc.ramBank * 0x1000 + (E - 0x7000)
      else E - 0x6000) →
    exec (.mrdCart a) s = .next { s with
      reply := ⟨.word
        (if (E < 0x7000 ∧ s.bsc.cartRam6) ∨ (0x7000 ≤ E ∧ s.bsc.cartRam7) then
          be16 (Memory.read s.bsc.cartRam idx) (Memory.read s.bsc.cartRam (idx + 1))
        else
          be16 (Image.byte s.bsc.cartImg (s.bsc.romBank * 0x2000 + (E - 0x6000)))
            (Image.byte s.bsc.cartImg (s.bsc.romBank * 0x2000 + (E - 0x6000) + 1))), s.params.waitDefault, [], none⟩ }

/-- R130, R132, R136, R141, R165: the sound port, the gap and the write-port addresses read zero and call nothing. -/
def Obligations.SilentReads : Prop :=
  ReadKeys 0x7FE00 0x08400 .mrdSound ∧ ReadKeys 0x7FE00 0x08600 .mrdGap ∧ ReadKeys 0x7FC00 0x08C00 .mrdVdpWp ∧
  ReadKeys 0x7FC00 0x09400 .mrdSpchWp ∧ ReadKeys 0x7FC00 0x09C00 .mrdGrWp ∧
  ∀ (a : Word) (s : State) (i : Instr),
    i ∈ [Instr.mrdSound a, .mrdGap a, .mrdVdpWp a, .mrdSpchWp a, .mrdGrWp a] → i.wf = true →
    exec i s = .next { s with reply := ⟨.word 0, s.params.waitDefault, [], none⟩ }

/-- R134, R135, R140: the device is called once, and its answer, whatever byte it is, comes back in D[15:8]. -/
def Obligations.DeviceReads : Prop :=
  ReadKeys 0x7FC02 0x08800 .mrdVdpData ∧ ReadKeys 0x7FC02 0x08802 .mrdVdpStat ∧
  ReadKeys 0x7FC00 0x09000 .mrdSpch ∧
  ∀ (a : Word) (s : State),
    ((Instr.mrdVdpData a).wf = true →
      exec (.mrdVdpData a) s = .next { s with
        draws := s.draws + 1,
        reply := ⟨.word (be16 (Config.vdpReadData s.draws) 0), s.params.waitDefault, [.vdpReadData], none⟩ }) ∧
    ((Instr.mrdVdpStat a).wf = true →
      exec (.mrdVdpStat a) s = .next { s with
        draws := s.draws + 1,
        reply := ⟨.word (be16 (Config.vdpReadStatus s.draws) 0), s.params.waitDefault, [.vdpReadStatus], none⟩ }) ∧
    ((Instr.mrdSpch a).wf = true →
      exec (.mrdSpch a) s = .next { s with
        draws := s.draws + 1,
        reply := ⟨.word (be16 (Config.speechReadData s.draws) 0), s.params.waitDefault, [.speechReadData], none⟩ })

/-! ### Timed memory writes -/

/-- R112, R133, R137, R142, R166: discarded writes change nothing; one in the GROM range charges the GROM cost. -/
def Obligations.DiscardedWrites : Prop :=
  WriteKeys 0x7E000 0x10000 .mwrRom ∧ WriteKeys 0x7FE00 0x18600 .mwrGap ∧ WriteKeys 0x7FC00 0x18800 .mwrVdpRp ∧
  WriteKeys 0x7FC00 0x19000 .mwrSpchRp ∧ WriteKeys 0x7FC00 0x19800 .mwrGrRp ∧
  ∀ (a d : Word) (s : State),
    (∀ i : Instr, i ∈ [Instr.mwrRom a d, .mwrGap a d, .mwrVdpRp a d, .mwrSpchRp a d] → i.wf = true →
      exec i s = .next { s with reply := ⟨.nothing, s.params.waitDefault, [], none⟩ }) ∧
    ((Instr.mwrGrRp a d).wf = true →
      exec (.mwrGrRp a d) s = .next { s with reply := ⟨.nothing, s.params.waitGromWrite, [], none⟩ })

/-- R131, R138, R139, R143: a write port calls its device once with D[15:8], and the block keeps its state. -/
def Obligations.DeviceWrites : Prop :=
  WriteKeys 0x7FE00 0x18400 .mwrSound ∧ WriteKeys 0x7FC02 0x18C00 .mwrVdpData ∧
  WriteKeys 0x7FC02 0x18C02 .mwrVdpAddr ∧ WriteKeys 0x7FC00 0x19400 .mwrSpch ∧
  ∀ (a d : Word) (s : State) (i : Instr) (c : Byte → DeviceCall),
    (i, c) ∈ [(Instr.mwrSound a d, DeviceCall.soundWriteData), (.mwrVdpData a d, .vdpWriteData),
      (.mwrVdpAddr a d, .vdpWriteAddress), (.mwrSpch a d, .speechWriteData)] → i.wf = true →
    exec i s = .next { s with
      reply := ⟨.nothing, s.params.waitDefault, [c (BitVec.ofNat 8 (d.toNat / 0x100))], none⟩ }

/-- R114, R116: a low or high RAM write stores two bytes, high byte first, in AMS_MEM at the translated address, or in
RAM at E, or nowhere, and changes nothing else. -/
def Obligations.RamWrites : Prop :=
  WriteKeys 0x7E000 0x12000 .mwrLoram ∧
  (∀ t : Txn, t.key.toNat &&& 0x78000 = 0x18000 → 0xA000 ≤ t.addr.toNat →
    decode t = .ok (.mwrHiram (evenAddr t.addr) (BitVec.ofNat 16 (t.scalar 0)))) ∧
  ∀ (a d : Word) (s : State) (i : Instr),
    (i = .mwrLoram a d ∧ 0x2000 ≤ a.toNat ∧ a.toNat < 0x4000) ∨ (i = .mwrHiram a d ∧ 0xA000 ≤ a.toNat) →
    ∀ E : Word, E = evenAddr a → ∀ r : Reply, r = ⟨.nothing, s.params.waitDefault, [], none⟩ →
    (s.decoder.amsEn = true →
      ∃ p m, amsPhys s.params s.ams E = some p ∧ exec i s = .next { s with ams.mem := m, reply := r } ∧
        ∀ x, Memory.read m x =
          if x = p then hi8 d else if x = p + 1 then lo8 d else Memory.read s.ams.mem x) ∧
    (s.decoder.amsEn = false → s.decoder.ram32kEn = true →
      ∃ m, exec i s = .next { s with decoder.ram := m, reply := r } ∧
        ∀ x, Memory.read m x =
          if x = E.toNat then hi8 d else if x = E.toNat + 1 then lo8 d else Memory.read s.decoder.ram x) ∧
    (s.decoder.amsEn = false → s.decoder.ram32kEn = false → exec i s = .next { s with reply := r })

/-- R127: a scratchpad write stores two bytes at the mirrored cell, and changes nothing else. -/
def Obligations.PadWrites : Prop :=
  WriteKeys 0x7FC00 0x18000 .mwrPad ∧
  ∀ (a d : Word) (s : State), 0x8000 ≤ a.toNat → a.toNat < 0x8400 → ∀ p : Nat, p = 0x8300 + a.toNat % 0x100 / 2 * 2 →
    ∃ m, exec (.mwrPad a d) s = .next { s with
        decoder.ram := m, reply := ⟨.nothing, s.params.waitDefault, [], none⟩ } ∧
      ∀ x, Memory.read m x =
        if x = p then hi8 d else if x = p + 1 then lo8 d else Memory.read s.decoder.ram x

/-- R118: a peripheral-window write stores the byte-swapped word in one AMS register while the register overlay is
shown, and is discarded otherwise. -/
def Obligations.PeriphWrites : Prop :=
  WriteKeys 0x7E000 0x14000 .mwrPeriph ∧
  ∀ (a d : Word) (s : State), 0x4000 ≤ a.toNat → a.toNat < 0x6000 →
    ∀ r : Reply, r = ⟨.nothing, s.params.waitDefault, [], none⟩ →
    (s.decoder.amsEn = true → s.ams.acc = true →
      ∃ v, exec (.mwrPeriph a d) s = .next { s with ams.reg := v, reply := r } ∧
        ∀ j : BitVec 4, at16 v j = if j.toNat = a.toNat / 2 % 16 then swap16 d else at16 s.ams.reg j) ∧
    (¬ (s.decoder.amsEn = true ∧ s.ams.acc = true) → exec (.mwrPeriph a d) s = .next { s with reply := r })

/-- R129, with the seat of R121, the store of R124 and the bank select of R125: a write of a RAM-seated half stores two
bytes of CART_RAM; a write of a ROM-seated half stores nothing and selects a bank. -/
def Obligations.CartWrites : Prop :=
  WriteKeys 0x7E000 0x16000 .mwrCart ∧
  ∀ (a d : Word) (s : State), 0x6000 ≤ a.toNat → a.toNat < 0x8000 → ∀ E : Nat, E = a.toNat / 2 * 2 →
    ∀ seated : Prop, (seated ↔ (E < 0x7000 ∧ s.bsc.cartRam6 = true) ∨ (0x7000 ≤ E ∧ s.bsc.cartRam7 = true)) →
    ∀ k : Nat, k = (if s.params.bankSelectSource = .address then E / 2 else d.toNat / 2) →
    ∀ n : Nat, n = s.bsc.cartImg.size / 0x2000 →
    ∀ r : Reply, r = ⟨.nothing, s.params.waitDefault, [], none⟩ →
    (seated → ∀ idx : Nat, idx = (if 0x7000 ≤ E ∧ s.bsc.cartPaged ∧ s.bsc.cartRam7 then
        s.bsc.ramBank * 0x1000 + (E - 0x7000) else E - 0x6000) →
      ∃ m, exec (.mwrCart a d) s = .next { s with bsc.cartRam := m, reply := r } ∧
        ∀ x, Memory.read m x =
          if x = idx then hi8 d else if x = idx + 1 then lo8 d else Memory.read s.bsc.cartRam x) ∧
    (¬ seated →
      exec (.mwrCart a d) s = .next
        (if s.bsc.cartPaged ∧ s.bsc.cartRam7 ∧ s.params.cartRamSel.toNat ≤ E then
          { s with bsc.ramBank := k &&& (s.params.cartRamBanks - 1), reply := r }
        else if 0 < n then
          { s with bsc.romBank := if s.bsc.cartInv then n - 1 - (k &&& (n - 1)) else k &&& (n - 1), reply := r }
        else { s with reply := r }))

/-! ### GROM ports -/

/-- R163: a data read answers the latch, then refills every latch from the cursor and advances it. -/
def Obligations.GromDataReads : Prop :=
  ReadKeys 0x7FC02 0x09800 .mrdGrData ∧
  ∀ (a : Word) (s : State), (Instr.mrdGrData a).wf = true →
    ∀ base : BitVec 4, base = (if gmulti s.gsq then BitVec.ofNat 4 (a.toNat / 4) else 0) →
    ∃ P, exec (.mrdGrData a) s = .next { s with
        gsq.gpref := P, gsq.gaddr := s.gsq.gaddr + 1,
        reply := ⟨.word (be16 (at16 s.gsq.gpref base) 0), s.params.waitDefault, [], none⟩ } ∧
      ∀ b : BitVec 4, at16 P b = Memory.read (at16 s.gsq.grom b) s.gsq.gaddr.toNat

/-- R164: an address read answers the high byte of the cursor and folds the cursor; latches and phase are kept. -/
def Obligations.GromAddressReads : Prop :=
  ReadKeys 0x7FC02 0x09802 .mrdGrAddr ∧
  ∀ (a : Word) (s : State), (Instr.mrdGrAddr a).wf = true → ∀ l : Nat, l = s.gsq.gaddr.toNat % 0x100 →
    exec (.mrdGrAddr a) s = .next { s with
      gsq.gaddr := BitVec.ofNat 16
        (match s.params.gromAddrReadFold with | .shift => l * 0x100 | .dup => l * 0x0101 | .zext => l),
      reply := ⟨.word (BitVec.ofNat 16 (s.gsq.gaddr.toNat / 0x100 * 0x100)), s.params.waitDefault, [], none⟩ }

/-- R167: a data write stores D[15:8] at the cursor less one while GRAM is enabled, then refills and advances; while it
is not, nothing changes. -/
def Obligations.GromDataWrites : Prop :=
  WriteKeys 0x7FC02 0x19C00 .mwrGrData ∧
  ∀ (a d : Word) (s : State), (Instr.mwrGrData a d).wf = true →
    ∀ base : BitVec 4, base = (if gmulti s.gsq then BitVec.ofNat 4 (a.toNat / 4) else 0) →
    ∀ r : Reply, r = ⟨.nothing, s.params.waitGromWrite, [], none⟩ →
    (s.decoder.gramEn = true →
      ∃ G P, exec (.mwrGrData a d) s = .next { s with
          gsq.grom := G, gsq.gpref := P, gsq.gaddr := s.gsq.gaddr + 1, reply := r } ∧
        (∀ (b : BitVec 4) (x : Nat), Memory.read (at16 G b) x =
          if b = base ∧ x = (s.gsq.gaddr.toNat + 0xFFFF) % 0x10000 then hi8 d else Memory.read (at16 s.gsq.grom b) x) ∧
        ∀ b : BitVec 4, at16 P b = Memory.read (at16 G b) s.gsq.gaddr.toNat) ∧
    (s.decoder.gramEn = false → exec (.mwrGrData a d) s = .next { s with reply := r })

/-- R168: an address write shifts D[15:8] into the cursor; the second of a pair also refills every latch and advances.
-/
def Obligations.GromAddressWrites : Prop :=
  WriteKeys 0x7FC02 0x19C02 .mwrGrAddr ∧
  ∀ (a d : Word) (s : State), (Instr.mwrGrAddr a d).wf = true →
    ∀ c : Word, c = BitVec.ofNat 16 (s.gsq.gaddr.toNat % 0x100 * 0x100 + d.toNat / 0x100) →
    ∀ r : Reply, r = ⟨.nothing, s.params.waitGromWrite, [], none⟩ →
    (s.gsq.gphase = .two →
      exec (.mwrGrAddr a d) s = .next { s with gsq.gaddr := c, gsq.gphase := .one, reply := r }) ∧
    (s.gsq.gphase = .one →
      ∃ P, exec (.mwrGrAddr a d) s = .next { s with
          gsq.gaddr := c + 1, gsq.gphase := .two, gsq.gpref := P, reply := r } ∧
        ∀ b : BitVec 4, at16 P b = Memory.read (at16 s.gsq.grom b) c.toNat)

/-! ### CRU -/

/-- R183: a timer-mode read of bits 1 to 14 answers as P_TIMER_READ says: the clock bit, the decrementer bit (of
max(DEC, 0) mod 2^14), or an oracle bit. -/
def Obligations.TimerBitReads : Prop :=
  CruReadKeys true 1 14 .crdTClk ∧
  ∀ (bit : CruBit) (s : State), (Instr.crdTClk bit).wf = true →
    (s.params.timerRead = .clock →
      exec (.crdTClk bit) s = .next { s with
        reply := ⟨.bit (s.cru.clk.toNat / 2 ^ (bit.toNat - 1) % 2 == 1), 0, [], none⟩ }) ∧
    (s.params.timerRead = .dec →
      exec (.crdTClk bit) s = .next { s with
        reply := ⟨.bit (max s.cru.dec 0 / 2 ^ (bit.toNat - 1) % 2 == 1), 0, [], none⟩ }) ∧
    (s.params.timerRead = .draw →
      ∃ b, exec (.crdTClk bit) s = .next { s with draws := s.draws + 1, reply := ⟨.bit b, 0, [], none⟩ })

/-- R181, R182, R185: the mode, the timer-interrupt flag and the inverted VDP flag. R184, R186: the keyboard line of the
selected column and the row bit - 3, and the tape level at ELAPSED, whatever the devices answer. -/
def Obligations.FlagAndLineReads : Prop :=
  (∀ m, CruReadKeys m 0 0 fun _ => .crdMode) ∧ CruReadKeys true 15 15 (fun _ => .crdTInt) ∧
  CruReadKeys false 2 2 (fun _ => .crdNVdp) ∧ CruReadKeys false 3 10 .crdNKbd ∧
  (∀ m, CruReadKeys m 27 27 fun _ => .crdTapeIn) ∧
  ∀ s : State,
    exec .crdMode s = .next { s with reply := ⟨.bit s.cru.tmode, 0, [], none⟩ } ∧
    exec .crdTInt s = .next { s with reply := ⟨.bit s.cru.tint, 0, [], none⟩ } ∧
    exec .crdNVdp s = .next { s with reply := ⟨.bit (!s.cru.vint), 0, [], none⟩ } ∧
    (∀ bit : CruBit, (Instr.crdNKbd bit).wf = true → ∀ col row : BitVec 3,
      (∀ j : Nat, j < 3 → col.getLsbD j = CruLines.read s.cru.bits (18 + j)) → row.toNat = bit.toNat - 3 →
      exec (.crdNKbd bit) s = .next { s with
        draws := s.draws + 1,
        reply := ⟨.bit (Config.kbdLine s.draws col row), 0, [.kbdLine col row], none⟩ }) ∧
    exec .crdTapeIn s = .next { s with
      draws := s.draws + 1,
      reply := ⟨.bit (Config.tapeLevel s.draws s.cru.elapsed), 0, [.tapeLevel s.cru.elapsed], none⟩ }

/-- R187: every other bit reads as P_UNLISTED_CRU_READ says: the last value written, 0, or an oracle bit. -/
def Obligations.StoredBitReads : Prop :=
  CruReadKeys false 1 1 .crdStored ∧ CruReadKeys false 11 15 .crdStored ∧
  (∀ m, CruReadKeys m 16 26 .crdStored ∧ CruReadKeys m 28 4095 .crdStored) ∧
  ∀ (bit : CruBit) (s : State), (Instr.crdStored bit).wf = true →
    (s.params.unlistedCruRead = .stored →
      exec (.crdStored bit) s = .next { s with
        reply := ⟨.bit (CruLines.read s.cru.bits bit.toNat), 0, [], none⟩ }) ∧
    (s.params.unlistedCruRead = .zero →
      exec (.crdStored bit) s = .next { s with reply := ⟨.bit false, 0, [], none⟩ }) ∧
    (s.params.unlistedCruRead = .draw →
      ∃ b, exec (.crdStored bit) s = .next { s with draws := s.draws + 1, reply := ⟨.bit b, 0, [], none⟩ })

/-- R188, R189, R190: the mode takes the written value; a timer-mode write of bit 15 does nothing; one of bits 1 to 14
sets one clock bit and, where the resulting clock is not 0, reloads the decrementer at once. -/
def Obligations.ModeAndClockWrites : Prop :=
  (∀ m, CruWriteKeys m 0 0 fun _ => .cwrMode) ∧ CruWriteKeys true 15 15 (fun _ => .cwrTB15) ∧
  CruWriteKeys true 1 14 .cwrTClk ∧
  (∀ (v : Bool) (s : State),
    exec (.cwrMode v) s = .next { s with cru.tmode := v, reply := ⟨.nothing, 0, [], none⟩ } ∧
    exec (.cwrTB15 v) s = .next { s with reply := ⟨.nothing, 0, [], none⟩ }) ∧
  ∀ (bit : CruBit) (v : Bool) (s : State), (Instr.cwrTClk bit v).wf = true →
    ∃ c : BitVec 14,
      exec (.cwrTClk bit v) s = .next { s with
        cru.clk := c, cru.dec := if c = 0 then s.cru.dec else (c.toNat : Int),
        reply := ⟨.nothing, 0, [], none⟩ } ∧
      ∀ j, j < 14 → c.getLsbD j = if j + 1 = bit.toNat then v else s.cru.clk.getLsbD j

/-- R191: a timer-mode write from bit 16 on leaves timer mode and then does what the row does that the same bit and
value decode to with M = 0. -/
def Obligations.TimerExitWrites : Prop :=
  CruWriteKeys true 16 4095 .cwrTExit ∧
  ∀ (bit : CruBit) (v : Bool) (s : State), (Instr.cwrTExit bit v).wf = true →
    ∃ i u, decode { Txn.ofKey (BitVec.ofNat 19 (0x30000 + bit.toNat)) with words := [v.toNat] } = .ok i ∧
      exec i { s with cru.tmode := false } = .next u ∧ exec (.cwrTExit bit v) s = .next u ∧ u.cru.tmode = false

/-- R192, R193, R194, R196: the stored writes of normal mode. Bit 3 also clears TINT; bits 22 and 25 also call the tape
device; no other line and no other element changes. -/
def Obligations.StoredBitWrites : Prop :=
  CruWriteKeys false 3 3 (fun _ => .cwrNAck) ∧ CruWriteKeys false 22 22 (fun _ => .cwrNMotor) ∧
  CruWriteKeys false 25 25 (fun _ => .cwrNTapeOut) ∧
  CruWriteKeys false 1 2 .cwrNStore ∧ CruWriteKeys false 4 21 .cwrNStore ∧ CruWriteKeys false 23 24 .cwrNStore ∧
  CruWriteKeys false 26 2047 .cwrNStore ∧
  ∀ (v : Bool) (s : State), ∀ wrote : CruLines → Nat → Prop,
    (∀ L n, wrote L n ↔ ∀ j, CruLines.read L j = if j = n then v else CruLines.read s.cru.bits j) →
    (∃ L, wrote L 3 ∧ exec (.cwrNAck v) s = .next { s with
      cru.bits := L, cru.tint := false, reply := ⟨.nothing, 0, [], none⟩ }) ∧
    (∃ L, wrote L 22 ∧ exec (.cwrNMotor v) s = .next { s with
      cru.bits := L, reply := ⟨.nothing, 0, [.tapeMotor v], none⟩ }) ∧
    (∃ L, wrote L 25 ∧ exec (.cwrNTapeOut v) s = .next { s with
      cru.bits := L, reply := ⟨.nothing, 0, [.tapeOut v], none⟩ }) ∧
    (∀ bit : CruBit, (Instr.cwrNStore bit v).wf = true →
      ∃ L, wrote L bit.toNat ∧ exec (.cwrNStore bit v) s = .next { s with
        cru.bits := L, reply := ⟨.nothing, 0, [], none⟩ })

/-- R195: a DSR-space write stores its line, selects, enables or disables a peripheral ROM where the doubled address ends
in 00, and sets AMS_ACC or AMS_MODE where it lies in [0x1E00,0x1F00) with sub-field 0 or 1. -/
def Obligations.DsrSpaceWrites : Prop :=
  CruWriteKeys false 0x800 0xFFF .cwrDsr ∧
  ∀ (bit : CruBit) (v : Bool) (s : State), (Instr.cwrDsr bit v).wf = true → ∀ A : Nat, A = 2 * bit.toNat →
    ∃ L, exec (.cwrDsr bit v) s = .next { s with
        cru.bits := L,
        decoder.dsrSel := if A % 0x100 = 0 ∧ v = true then BitVec.ofNat 4 (A / 0x100) else s.decoder.dsrSel,
        decoder.dsrEn :=
          if A % 0x100 = 0 then
            (if v then true
            else if A / 0x100 % 16 = s.decoder.dsrSel.toNat ∨ s.params.dsrDisableAny = true then false
            else s.decoder.dsrEn)
          else s.decoder.dsrEn,
        ams.acc := if 0x1E00 ≤ A ∧ A < 0x1F00 ∧ A / 2 % 8 = 0 then v else s.ams.acc,
        ams.mode := if 0x1E00 ≤ A ∧ A < 0x1F00 ∧ A / 2 % 8 = 1 then v else s.ams.mode,
        reply := ⟨.nothing, 0, [], none⟩ } ∧
      ∀ j, CruLines.read L j = if j = bit.toNat then v else CruLines.read s.cru.bits j

/-- R199, R200: a tick advances ELAPSED and, while the clock is not 0, the decrementer, which on reaching 0 or less
reloads and raises TINT; VDPINT sets VINT. -/
def Obligations.TickAndVdpInt : Prop :=
  (∀ (delta : Nat) (s : State), ∀ e : Nat, e = s.cru.elapsed + delta → ∀ d : Int, d = s.cru.dec - delta →
    ∀ r : Reply, r = ⟨.nothing, 0, [], none⟩ →
    exec (.tick delta) s = .next
      (if s.cru.clk = 0 then { s with cru.elapsed := e, reply := r }
      else if d ≤ 0 then
        { s with cru.elapsed := e, cru.dec := (s.cru.clk.toNat : Int), cru.tint := true, reply := r }
      else { s with cru.elapsed := e, cru.dec := d, reply := r })) ∧
  ∀ (level : Bool) (s : State),
    exec (.vdpInt level) s = .next { s with cru.vint := level, reply := ⟨.nothing, 0, [], none⟩ }

/-! ### Reset, construction and host operations -/

/-- R260: what both kinds of reset write, and what only the cold one writes; everything else is kept. -/
def Obligations.ResetClears : Prop :=
  ∀ (kind : ResetKind) (s : State),
    ∃ G P R F, exec (.reset kind) s = .next { s with
        decoder := { s.decoder with
          ram := [],
          dsrEn := if kind = .cold then false else s.decoder.dsrEn,
          dsrSel := if kind = .cold then 0 else s.decoder.dsrSel },
        bsc := {
          cartImg := if kind = .cold then ⟨0, []⟩ else s.bsc.cartImg,
          cartRam := [],
          cartInv := if kind = .cold then false else s.bsc.cartInv,
          cartRam6 := if kind = .cold then false else s.bsc.cartRam6,
          cartRam7 := if kind = .cold then false else s.bsc.cartRam7,
          cartPaged := if kind = .cold then false else s.bsc.cartPaged,
          romBank := 0,
          ramBank := 0 },
        ams := ⟨[], R, false, false⟩,
        cru := ⟨[], false, 0, 0, false, false, 0⟩,
        gsq := ⟨G, F, 0, .two, P⟩,
        reply := ⟨.nothing, 0, [], none⟩ } ∧
      ∀ b : BitVec 4,
        at16 R b = BitVec.ofNat 16 b.toNat ∧ at16 P b = 0 ∧ at16 F b = (if b = 0 then at16 s.gsq.gpop 0 else false) ∧
        ∀ x, Memory.read (at16 G b) x = if b = 0 ∧ x < 0x6000 then Memory.read (at16 s.gsq.grom 0) x else 0

/-- R262, with the cold-reset values of 10_state.md R51: the state that construction makes of a ROM image, a console
GROM image, the three settings and the parameters. Images that fit are meant (log 14). -/
def Obligations.ConstructionState : Prop :=
  ∀ (rom grom : List Byte) (ram32k ams gram : Bool) (p : Params), rom.length ≤ 0x2000 → grom.length ≤ 0x6000 →
    ∃ M G P R F D, construct rom grom ram32k ams gram p =
      { decoder := ⟨ram32k, ams, gram, M, [], D, 0, false⟩,
        bsc := ⟨⟨0, []⟩, [], false, false, false, false, 0, 0⟩,
        ams := ⟨[], R, false, false⟩,
        cru := ⟨[], false, 0, 0, false, false, 0⟩,
        gsq := ⟨G, F, 0, .two, P⟩,
        params := p, pending := [], reply := ⟨.nothing, 0, [], none⟩, draws := 0 } ∧
      (∀ x, Memory.read M x = rom.getD x 0) ∧
      ∀ b : BitVec 4,
        at16 D b = ⟨0, []⟩ ∧ at16 R b = BitVec.ofNat 16 b.toNat ∧ at16 P b = 0 ∧ at16 F b = decide (b = 0) ∧
        ∀ x, Memory.read (at16 G b) x = if b = 0 then grom.getD x 0 else 0

/-- The state right after reset is the construction of the empty images with RAM32K_EN = 1, AMS_EN = 0, GRAM_EN = 0 and
the listed parameters, which are the model's choice (log 4, log 5), and its elements hold the values of 10_state.md
section 1.8. -/
def Obligations.ResetStateValues : Prop :=
  State.reset = construct [] [] true false false Params.default ∧
  State.reset.decoder.ram = [] ∧ cartBanks State.reset.bsc = 0 ∧ State.reset.bsc.romBank = 0 ∧
  State.reset.decoder.dsrEn = false ∧ State.reset.ams.mode = false ∧ State.reset.ams.acc = false ∧
  State.reset.gsq.gaddr = 0 ∧ State.reset.gsq.gphase = .two ∧ gmulti State.reset.gsq = false ∧
  State.reset.cru.tmode = false ∧ State.reset.cru.clk = 0 ∧ State.reset.cru.dec = 0 ∧
  intVdp State.reset.cru = false ∧ intTimer State.reset.cru = false

/-- R210: an empty list answers E_EMPTY and stores nothing; after a nonempty load every cell of RAM, AMS_MEM and CART_RAM holds the last byte whose address the routing
sends to it, and its old byte where none is sent; nothing else changes. -/
def Obligations.LoadRamStores : Prop :=
  (∀ (a : Word) (s : State), exec (.loadRam a []) s = .next { s with reply := ⟨.nothing, 0, [], some .eEmpty⟩ }) ∧
  ∀ (a : Word) (bytes : List Byte) (s : State), bytes ≠ [] →
    ∃ m1 m2 m3, exec (.loadRam a bytes) s = .next { s with
        decoder.ram := m1, ams.mem := m2, bsc.cartRam := m3, reply := ⟨.ok, 0, [], none⟩ } ∧
      ∀ c : StoreCell, cellByte { s with decoder.ram := m1, ams.mem := m2, bsc.cartRam := m3 } c =
        match lastIndex bytes.length (fun j => decide (loadTarget s (a + BitVec.ofNat 16 j) = some c)) with
        | some j => bytes.getD j 0
        | none => cellByte s c

/-- R211: an empty list answers E_EMPTY and stores nothing; after a nonempty load every byte of the base holds the last byte loaded at its offset modulo 2^16, and its old
byte where none is; a base from 1 on becomes populated; nothing else changes. -/
def Obligations.LoadGromStores : Prop :=
  (∀ (base : BitVec 4) (offset : Word) (s : State),
    exec (.loadGrom base offset []) s = .next { s with reply := ⟨.nothing, 0, [], some .eEmpty⟩ }) ∧
  ∀ (base : BitVec 4) (offset : Word) (bytes : List Byte) (s : State), bytes ≠ [] →
    ∃ G F, exec (.loadGrom base offset bytes) s = .next { s with
        gsq.grom := G, gsq.gpop := F, reply := ⟨.ok, 0, [], none⟩ } ∧
      (∀ b : BitVec 4, at16 F b = if b = base ∧ base ≠ 0 then true else at16 s.gsq.gpop b) ∧
      ∀ (b : BitVec 4) (x : Nat), Memory.read (at16 G b) x =
        match lastIndex bytes.length (fun j => decide (b = base ∧ (offset.toNat + j) % 0x10000 = x)) with
        | some j => bytes.getD j 0
        | none => Memory.read (at16 s.gsq.grom b) x

/-- R212, R213: an empty list answers E_EMPTY and installs nothing; a nonempty cartridge image is padded with zeros to the next multiple of 0x2000 and installed with its
flags, bank 0 and a cleared CART_RAM; a nonempty peripheral image is installed under its slot. -/
def Obligations.ImageLoads : Prop :=
  (∀ (inv ram6 ram7 paged : Bool) (slot : BitVec 4) (s : State) (i : Instr),
    i ∈ [Instr.loadCart [] inv ram6 ram7 paged, .loadDsr slot []] →
    exec i s = .next { s with reply := ⟨.nothing, 0, [], some .eEmpty⟩ }) ∧
  ∀ (bytes : List Byte) (s : State), bytes ≠ [] →
    (∀ inv ram6 ram7 paged : Bool, ∃ img : Image,
      exec (.loadCart bytes inv ram6 ram7 paged) s = .next { s with
        bsc := ⟨img, [], inv, ram6, ram7, paged, 0, 0⟩, reply := ⟨.ok, 0, [], none⟩ } ∧
      img.size % 0x2000 = 0 ∧ bytes.length ≤ img.size ∧ img.size < bytes.length + 0x2000 ∧
      ∀ x, Image.byte img x = bytes.getD x 0) ∧
    (∀ slot : BitVec 4, ∃ D, exec (.loadDsr slot bytes) s = .next { s with
        decoder.dsrImg := D, reply := ⟨.ok, 0, [], none⟩ } ∧
      (∀ b : BitVec 4, b ≠ slot → at16 D b = at16 s.decoder.dsrImg b) ∧
      (at16 D slot).size = bytes.length ∧ ∀ x, Image.byte (at16 D slot) x = bytes.getD x 0)

/-- R215, R216, R217: a setting takes the value, and no contents move. -/
def Obligations.SettingsWrites : Prop :=
  ∀ (v : Bool) (s : State), ∀ r : Reply, r = ⟨.nothing, 0, [], none⟩ →
    exec (.setRam32k v) s = .next { s with decoder.ram32kEn := v, reply := r } ∧
    exec (.setAms v) s = .next { s with decoder.amsEn := v, reply := r } ∧
    exec (.setGram v) s = .next { s with decoder.gramEn := v, reply := r }

/-- The two host errors (60_exceptions.md section 7.1, R240): the four loaders with an empty list and RESTORE_STATE with
an ill-formed snapshot answer their error, and an error of any instruction is one of these and leaves everything but the
reply as it was. Which snapshots are ill-formed rests on the model's choices in log 10, log 15 and log 18. -/
def Obligations.HostErrorsChangeNothing : Prop :=
  (∀ (s : State) (a o : Word) (b n : BitVec 4) (f1 f2 f3 f4 : Bool) (i : Instr),
    i ∈ [Instr.loadRam a [], .loadGrom b o [], .loadCart [] f1 f2 f3 f4, .loadDsr n []] →
    exec i s = .next { s with reply := ⟨.nothing, 0, [], some .eEmpty⟩ }) ∧
  (∀ (s : State) (S : Snapshot), snapshotWellFormed s.params s.decoder.rom S = false →
    exec (.restoreState S) s = .next { s with reply := ⟨.nothing, 0, [], some .eSnapshot⟩ }) ∧
  ∀ (i : Instr) (s u : State) (e : HostError), exec i s = .next u → u.reply.error = some e →
    u = { s with reply := ⟨.nothing, 0, [], some e⟩ } ∧
    match e with
    | .eEmpty => (∃ a, i = .loadRam a []) ∨ (∃ b o, i = .loadGrom b o []) ∨
        (∃ f1 f2 f3 f4, i = .loadCart [] f1 f2 f3 f4) ∨ ∃ n, i = .loadDsr n []
    | .eSnapshot => ∃ S, i = .restoreState S ∧ snapshotWellFormed s.params s.decoder.rom S = false

/-- GET_STATE answers a snapshot that holds every element of the block; RESTORE_STATE installs every element of a
well-formed snapshot at once, and nothing of an ill-formed one (43_host.md section 6.3). The encoding of a snapshot is
the model's choice (log 10), and so is what tells a snapshot of another machine: its console ROM (log 15), and of its
parameters only what sizes and ranges show (log 18). -/
def Obligations.SnapshotTakenAndInstalled : Prop :=
  (∀ s : State, ∃ S, exec .getState s = .next { s with reply := ⟨.snapshot S, 0, [], none⟩ } ∧
    snapshotBlock S = s.toBlock) ∧
  ∀ (S : Snapshot) (s : State),
    exec (.restoreState S) s = .next
      (if snapshotWellFormed s.params s.decoder.rom S then { s with toBlock := snapshotBlock S, reply := ⟨.ok, 0, [], none⟩ }
      else { s with reply := ⟨.nothing, 0, [], some .eSnapshot⟩ })

/-- The snapshots RESTORE_STATE takes on a block with a console ROM are exactly those GET_STATE takes of a block with the
same ROM that meets the invariant (43_host.md section 6.3). The encoding of a snapshot (log 10), that it must hold the
block's own ROM (log 15) and that parameters show in it only by sizes and ranges (log 18) are the model's choices. -/
def Obligations.WellFormedSnapshots : Prop :=
  ∀ (p : Params) (rom : Memory) (S : Snapshot),
    snapshotWellFormed p rom S = true ↔ ∃ b, BlockInv p b ∧ b.decoder.rom = rom ∧ S = takeSnapshot p b

/-- Restoring what GET_STATE took brings any later state of the same machine back to the block it was taken from: the
spec's own inference in 43_host.md section 6.3 ("RESTORE_STATE(GET_STATE()) succeeds and leaves the state equal to X"),
over every state that meets the invariant. The same machine is the same parameters and the same console ROM, which no
transaction changes (log 15); the encoding of the snapshot is the model's (log 10). -/
def Obligations.SnapshotRoundTrip : Prop :=
  ∀ (s t : State) (S : Snapshot), s.Inv → exec .getState s = .next t → t.reply.value = .snapshot S →
    ∀ u : State, u.params = s.params → u.decoder.rom = s.decoder.rom →
      exec (.restoreState S) u = .next { u with toBlock := s.toBlock, reply := ⟨.ok, 0, [], none⟩ }

/-- R221, R222: a debug word read answers the word the timed read of the same address answers in the stores and zero in
the port regions; a debug byte read answers the half of that word its address names. Neither charges or changes
anything. -/
def Obligations.DebugReads : Prop :=
  ∀ (a : Word) (s : State), ∀ E : Word, E = evenAddr a →
    ∃ W : Word,
      exec (.dbgRdw a) s = .next { s with reply := ⟨.word W, 0, [], none⟩ } ∧
      exec (.dbgRdb a) s = .next { s with
        reply := ⟨.byte (BitVec.ofNat 8 (if a.toNat % 2 = 0 then W.toNat / 0x100 else W.toNat)), 0, [], none⟩ } ∧
      (region E ∈ [Region.sound, .gap, .vdp, .speech, .grom] → W = 0) ∧
      ∀ i : Instr, decode (Txn.ofKey (BitVec.ofNat 19 E.toNat)) = .ok i →
        i ∈ [Instr.mrdRom E, .mrdLoram E, .mrdHiram E, .mrdPeriph E, .mrdCart E, .mrdPad E] →
        ∃ u, exec i s = .next u ∧ u.reply.value = .word W

/-- R225: STATUS answers a text, charges nothing and changes nothing; two states that agree on the six elements the rule
names give the same text. -/
def Obligations.StatusText : Prop :=
  ∀ s : State, ∃ T, exec .status s = .next { s with reply := ⟨.text T, 0, [], none⟩ } ∧
    ∀ u : State, u.gsq.gaddr = s.gsq.gaddr → u.bsc.romBank = s.bsc.romBank → u.bsc.ramBank = s.bsc.ramBank →
      u.ams.reg = s.ams.reg → u.ams.mode = s.ams.mode → u.ams.acc = s.ams.acc →
      exec .status u = .next { u with reply := ⟨.text T, 0, [], none⟩ }

/-! ### Rules of the whole machine -/

/-- The invariant holds after reset. The values of the state after reset that the spec leaves to construction are the
model's choice (log 4, log 5). -/
def Obligations.ResetMeetsInvariant : Prop := State.reset.Inv

/-- Every step keeps the invariant: stores canonical and inside their sizes, bank indices in range, GPOP[0] = 1, DEC in
[0, 2^14) and at least 1 while CLK is not 0 (10_state.md sections 1.1 to 1.6, 43_host.md section 6.3). -/
def Obligations.StepKeepsInvariant : Prop :=
  ∀ s t : State, s.Inv → step s = .next t → t.Inv

/-- R110: the charge of every instruction: P_WAIT_GROM_WRITE for a timed write in [0x9800,0xA000), P_WAIT_DEFAULT for
every other timed transaction, and nothing for the rest. -/
def Obligations.WaitStateCharges : Prop :=
  ∀ (i : Instr) (s : State), i.wf = true →
    ∃ t, exec i s = .next t ∧
      t.reply.cycles =
        if isTimedWrite i ∧ 0x9800 ≤ (timedAddr i).toNat ∧ (timedAddr i).toNat < 0xA000 then s.params.waitGromWrite
        else if isTimedRead i ∨ isTimedWrite i then s.params.waitDefault
        else 0

/-- R66, R67: the physical address of an AMS access and the byte primitives over it: the page of the active table, masked by the page count, and the twelve
low bits of the address. The table is AMS_REG in mapping mode and the eight fixed windows in transparent mode; under the
constraints on the parameters the address lies inside the store. A get after a set answers the byte set wherever the two
addresses translate to the same place. The last clause, that the two bytes of a word at an even address lie side by
side in one page, is the spec's own inference in 20_memory.md section 2.3 ("Both bytes lie in the same page, because
A & 0xFFF <= 0xFFE"). -/
def Obligations.AmsTranslation : Prop :=
  ∀ (p : Params) (u : PageMapper) (a : Word) (w : BitVec 4), w = BitVec.ofNat 4 (a.toNat / 0x1000) →
    (u.mode = true →
      amsPhys p u a = some ((((at16 u.reg w).toNat &&& (p.amsPages - 1)) <<< 12) ||| (a.toNat &&& 0x0FFF))) ∧
    (u.mode = false →
      amsPhys p u a =
        if w.toNat ∈ [2, 3, 10, 11, 12, 13, 14, 15] then
          some (((w.toNat &&& (p.amsPages - 1)) <<< 12) ||| (a.toNat &&& 0x0FFF))
        else none) ∧
    (Params.wf p → ∀ x, amsPhys p u a = some x → x < p.amsPages * 0x1000) ∧
    (amsGet p u a = match amsPhys p u a with | some x => Memory.read u.mem x | none => 0) ∧
    (∀ b : Byte, amsPhys p u a = none → amsSet p u a b = u) ∧
    (∀ (b : Byte) (c : Word) (x : Nat), amsPhys p u a = some x →
      amsGet p (amsSet p u a b) c = if amsPhys p u c = some x then b else amsGet p u c) ∧
    (a.toNat % 2 = 0 → ∀ x, amsPhys p u a = some x → amsPhys p u (a + 1) = some (x + 1))

/-- Which transactions may change the elements that control decoding: nothing else does, and nothing at all changes the
console ROM (10_state.md sections 1.1 to 1.4). That RESTORE_STATE keeps ROM because it turns away a snapshot with
another one is the model's reading (log 15). -/
def Obligations.ControlStateWriters : Prop :=
  ∀ (i : Instr) (s t : State), exec i s = .next t →
    t.params = s.params ∧ t.pending = s.pending ∧ t.decoder.rom = s.decoder.rom ∧
    ((∃ S, i = .restoreState S) ∨
      (((∀ v, i ≠ .setRam32k v) → t.decoder.ram32kEn = s.decoder.ram32kEn) ∧
      ((∀ v, i ≠ .setAms v) → t.decoder.amsEn = s.decoder.amsEn) ∧
      ((∀ v, i ≠ .setGram v) → t.decoder.gramEn = s.decoder.gramEn) ∧
      ((∀ n bs, i ≠ .loadDsr n bs) → t.decoder.dsrImg = s.decoder.dsrImg) ∧
      ((∀ bs f1 f2 f3 f4, i ≠ .loadCart bs f1 f2 f3 f4) → i ≠ .reset .cold → t.bsc.cartImg = s.bsc.cartImg) ∧
      ((∀ k, i ≠ .reset k) →
        ((∀ a d, i ≠ .mwrPeriph a d) ∨ s.decoder.amsEn = false ∨ s.ams.acc = false → t.ams.reg = s.ams.reg) ∧
        ((∀ bit v, i ≠ .cwrDsr bit v ∧ i ≠ .cwrTExit bit v) →
          t.ams.mode = s.ams.mode ∧ t.ams.acc = s.ams.acc ∧ t.decoder.dsrSel = s.decoder.dsrSel ∧
            t.decoder.dsrEn = s.decoder.dsrEn) ∧
        ((∀ a d, i ≠ .mwrCart a d) → (∀ bs f1 f2 f3 f4, i ≠ .loadCart bs f1 f2 f3 f4) →
          t.bsc.romBank = s.bsc.romBank ∧ t.bsc.ramBank = s.bsc.ramBank))))

/-- Which transactions may change the GROM sequencer and the CRU's mode, clock and flags: nothing else does (10_state.md
sections 1.5 and 1.6). -/
def Obligations.SequencerAndTimerWriters : Prop :=
  ∀ (i : Instr) (s t : State), exec i s = .next t →
    (∃ S, i = .restoreState S) ∨ (∃ k, i = .reset k) ∨
      (((∀ a, i ≠ .mrdGrData a) → (∀ a d, i ≠ .mwrGrData a d ∧ i ≠ .mwrGrAddr a d) →
          t.gsq.gpref = s.gsq.gpref ∧ ((∀ a, i ≠ .mrdGrAddr a) → t.gsq.gaddr = s.gsq.gaddr)) ∧
        ((∀ a d, i ≠ .mwrGrAddr a d) → t.gsq.gphase = s.gsq.gphase) ∧
        ((∀ b o bs, i ≠ .loadGrom b o bs) → t.gsq.gpop = s.gsq.gpop ∧
          ((∀ a d, i ≠ .mwrGrData a d) ∨ s.decoder.gramEn = false → t.gsq.grom = s.gsq.grom)) ∧
        ((∀ v, i ≠ .cwrMode v) → (∀ bit v, i ≠ .cwrTExit bit v) → t.cru.tmode = s.cru.tmode) ∧
        ((∀ bit v, i ≠ .cwrTClk bit v) → t.cru.clk = s.cru.clk ∧
          ((∀ n, i ≠ .tick n) → t.cru.dec = s.cru.dec)) ∧
        ((∀ n, i ≠ .tick n) → t.cru.elapsed = s.cru.elapsed ∧ (t.cru.tint = true → s.cru.tint = true)) ∧
        ((∀ v, i ≠ .cwrNAck v) → s.cru.tint = true → t.cru.tint = true) ∧
        ((∀ v, i ≠ .vdpInt v) → t.cru.vint = s.cru.vint))

/-- The interrupt lines: each is its flag and its enable line, and which transaction can raise or drop each of them. The timer line rises only in a TICK and is
down after every normal-mode write of bit 3; the VDP line moves only with VDPINT or with the enable of bit 2
(60_exceptions.md section 7.2). -/
def Obligations.InterruptLineCauses : Prop :=
  (∀ c : CruUnit, intVdp c = (c.vint && CruLines.read c.bits 2) ∧ intTimer c = (c.tint && CruLines.read c.bits 3)) ∧
  ∀ (i : Instr) (s t : State), i.wf = true → exec i s = .next t →
    (∃ S, i = .restoreState S) ∨
      ((intTimer t.cru = true → intTimer s.cru = false → ∃ n, i = .tick n) ∧
        (intTimer t.cru = false → intTimer s.cru = true → (∃ v, i = .cwrNAck v) ∨ ∃ k, i = .reset k) ∧
        (∀ v, i = .cwrNAck v → intTimer t.cru = false) ∧
        (intVdp t.cru = true → intVdp s.cru = false → i = .vdpInt true ∨ i = .cwrNStore 2 true) ∧
        (intVdp t.cru = false → intVdp s.cru = true →
          i = .vdpInt false ∨ i = .cwrNStore 2 false ∨ ∃ k, i = .reset k))

/-- Debug reads are invisible: taking every GET_STATE, DBG_RDB, DBG_RDW and STATUS out of a sequence leaves the replies
of the others and the state (but for the last reply) as they were: the spec's own inference in 43_host.md section 6.4.
-/
def Obligations.DebugReadsAreInvisible : Prop :=
  ∀ (is : List Instr) (s : State),
    ∃ rs u r, trace is s = .next (rs, u) ∧
      trace (is.filter (fun i => !isDebug i)) s =
        .next (rs.filter (fun x => !isDebug x.1), { u with reply := r })

/-- GSETADDR a from GPHASE = 2, then any number k of data reads: the cursor is a + k + 1, every latch holds its base's
byte at a + k, and the next data read answers that byte: the spec's own inference in 41_grom.md section 4.12. -/
def Obligations.GromAddressThenReads : Prop :=
  ∀ (s : State) (a : Word) (ports : List Word), s.gsq.gphase = .two →
    (∀ p ∈ ports, (Instr.mrdGrData p).wf = true) → ∀ k : Word, k = BitVec.ofNat 16 ports.length →
    ∃ P r, execAll (gsetaddr a ++ ports.map .mrdGrData) s = .next { s with
        gsq.gaddr := a + k + 1, gsq.gphase := .two, gsq.gpref := P, reply := r } ∧
      (∀ b : BitVec 4, at16 P b = Memory.read (at16 s.gsq.grom b) (a + k).toNat) ∧
      ∀ p : Word, (Instr.mrdGrData p).wf = true →
        ∃ u, exec (.mrdGrData p) { s with gsq.gaddr := a + k + 1, gsq.gphase := .two, gsq.gpref := P, reply := r } =
            .next u ∧ u.gsq.gaddr = a + k + 2 ∧
          u.reply.value = .word (be16 (Memory.read (at16 s.gsq.grom
            (if gmulti s.gsq then BitVec.ofNat 4 (p.toNat / 4) else 0)) (a + k).toNat) 0)

/-- GSETADDR a, then a data write with GRAM enabled, stores at a; GSETADDR a again and a data read answer the byte
written: the spec's own inference in 70_reset_and_hazards.md section 8.2 ("After GSETADDR a, writes go to a"). -/
def Obligations.GramWriteThenRead : Prop :=
  ∀ (s : State) (a w p d : Word), s.gsq.gphase = .two → s.decoder.gramEn = true →
    (Instr.mwrGrData w d).wf = true → (Instr.mrdGrData p).wf = true → (w.toNat / 4 % 16 = p.toNat / 4 % 16) →
    ∃ u, execAll (gsetaddr a ++ [.mwrGrData w d] ++ gsetaddr a ++ [.mrdGrData p]) s = .next u ∧
      u.reply.value = .word (be16 (hi8 d) 0) ∧ u.gsq.gaddr = a + 2

/-- The timer's period: with CLK = DEC = n and no clock write, after k ticks of 1 the decrementer is n - k mod n, and the
next tick raises TINT exactly when n divides k + 1; a longer tick that passes 0 raises TINT once and reloads the whole n:
the spec's own inference in 42_cru.md section 5.4. -/
def Obligations.TimerPeriod : Prop :=
  ∀ (s : State) (n k : Nat), n = s.cru.clk.toNat → 0 < n → s.cru.dec = n →
    ∃ u, execAll (List.replicate k (.tick 1)) s = .next u ∧ u.cru.clk = s.cru.clk ∧
      u.cru.dec = (n : Int) - (k % n : Nat) ∧ u.cru.tint = (s.cru.tint || decide (n ≤ k)) ∧
      (∃ t, exec (.tick 1) { u with cru.tint := false } = .next t ∧ (t.cru.tint = true ↔ n ∣ k + 1)) ∧
      ∀ d : Nat, u.cru.dec < d → ∃ t, exec (.tick d) u = .next t ∧ t.cru.tint = true ∧ t.cru.dec = n

/-- TIMERSET n loads the clock with n and leaves timer mode; where n is not 0 the countdown starts from n at once; the
flags and every line but 16 are kept (30_encoding.md section 3.5, 42_cru.md section 5.3). -/
def Obligations.TimerSetLoadsClock : Prop :=
  ∀ (s : State) (n : BitVec 14),
    ∃ L d r, execAll (timerset n) s = .next { s with
        cru.bits := L, cru.tmode := false, cru.clk := n, cru.dec := d, reply := r } ∧
      (n ≠ 0 → d = n.toNat) ∧
      ∀ j, CruLines.read L j = if j = 16 then false else CruLines.read s.cru.bits j

/-- A word written to low or high RAM, or to the scratchpad at any of its four mirrors, is the word the next read of the
same cell answers, through whatever storage the configuration selects (20_memory.md sections 2.3 and 2.5). -/
def Obligations.ReadAfterWrite : Prop :=
  ∀ (s : State) (a b d : Word),
    ((Instr.mwrLoram a d).wf = true → s.decoder.amsEn = true ∨ s.decoder.ram32kEn = true →
      ∃ u, execAll [.mwrLoram a d, .mrdLoram a] s = .next u ∧ u.reply.value = .word d) ∧
    ((Instr.mwrHiram a d).wf = true → s.decoder.amsEn = true ∨ s.decoder.ram32kEn = true →
      ∃ u, execAll [.mwrHiram a d, .mrdHiram a] s = .next u ∧ u.reply.value = .word d) ∧
    ((Instr.mwrPad a d).wf = true → (Instr.mrdPad b).wf = true → a.toNat % 0x100 = b.toNat % 0x100 →
      ∃ u, execAll [.mwrPad a d, .mrdPad b] s = .next u ∧ u.reply.value = .word d)
end

