-- ==== Sys2Proof/Laws/Decode.lean ====
section
/-! SUPPORT. The laws of decoding: the masks of the opcode table as arithmetic, the part of the table a key can hit, and
for each row the arithmetic condition under which a key decodes to it (30_encoding.md R93, R97 to R99). -/

namespace Sys2Proof
open Machine

/-! ### Masks -/

/-- A mask of w ones from bit b on. -/
theorem and_block (n b w : Nat) : n &&& ((2 ^ w - 1) * 2 ^ b) = n / 2 ^ b % 2 ^ w * 2 ^ b := by
  apply Nat.eq_of_testBit_eq
  intro i
  rw [Nat.testBit_and, Nat.testBit_mul_two_pow, Nat.testBit_mul_two_pow, Nat.testBit_mod_two_pow,
    Nat.testBit_div_two_pow, Nat.testBit_two_pow_sub_one]
  by_cases h : b ≤ i
  · by_cases h2 : i - b < w <;> simp [h, h2]
  · simp [h]

/-- A mask of two separate blocks of ones. -/
theorem and_blocks (n b w c v : Nat) (h : c + v ≤ b) :
    n &&& ((2 ^ w - 1) * 2 ^ b + (2 ^ v - 1) * 2 ^ c) = n / 2 ^ b % 2 ^ w * 2 ^ b + n / 2 ^ c % 2 ^ v * 2 ^ c := by
  have lt : ∀ x, x < 2 ^ v → x * 2 ^ c < 2 ^ b := fun x hx =>
    calc x * 2 ^ c < 2 ^ v * 2 ^ c := Nat.mul_lt_mul_of_pos_right hx (Nat.two_pow_pos c)
      _ = 2 ^ (c + v) := by rw [← Nat.pow_add, Nat.add_comm]
      _ ≤ 2 ^ b := Nat.pow_le_pow_right (by decide) h
  rw [Nat.mul_comm _ (2 ^ b), Nat.mul_comm _ (2 ^ b),
    Nat.two_pow_add_eq_or_of_lt (lt _ (Nat.sub_lt (Nat.two_pow_pos v) (by decide))),
    Nat.two_pow_add_eq_or_of_lt (lt _ (Nat.mod_lt _ (Nat.two_pow_pos v))), Nat.and_or_distrib_left,
    Nat.mul_comm (2 ^ b), Nat.mul_comm (2 ^ b), and_block, and_block]

theorem and_7E000 (n : Nat) : n &&& 0x7E000 = n / 0x2000 % 0x40 * 0x2000 := and_block n 13 6
theorem and_7FC00 (n : Nat) : n &&& 0x7FC00 = n / 0x400 % 0x200 * 0x400 := and_block n 10 9
theorem and_7FE00 (n : Nat) : n &&& 0x7FE00 = n / 0x200 % 0x400 * 0x200 := and_block n 9 10
theorem and_7FC02 (n : Nat) : n &&& 0x7FC02 = n / 0x400 % 0x200 * 0x400 + n / 2 % 2 * 2 :=
  and_blocks n 10 9 1 1 (by decide)
theorem and_78000 (n : Nat) : n &&& 0x78000 = n / 0x8000 % 0x10 * 0x8000 := and_block n 15 4
theorem and_70000 (n : Nat) : n &&& 0x70000 = n / 0x10000 % 8 * 0x10000 := and_block n 16 3
theorem and_7F000 (n : Nat) : n &&& 0x7F000 = n / 0x1000 % 0x80 * 0x1000 := and_block n 12 7
theorem and_70FFF (n : Nat) : n &&& 0x70FFF = n / 0x10000 % 8 * 0x10000 + n % 0x1000 := by
  simpa using and_blocks n 16 3 0 12 (by decide)
theorem and_71FFF (n : Nat) : n &&& 0x71FFF = n / 0x10000 % 8 * 0x10000 + n % 0x2000 := by
  simpa using and_blocks n 16 3 0 13 (by decide)
theorem and_71000 (n : Nat) : n &&& 0x71000 = n / 0x10000 % 8 * 0x10000 + n / 0x1000 % 2 * 0x1000 :=
  and_blocks n 16 3 12 1 (by decide)
theorem and_71800 (n : Nat) : n &&& 0x71800 = n / 0x10000 % 8 * 0x10000 + n / 0x800 % 4 * 0x800 :=
  and_blocks n 16 3 11 2 (by decide)

/-! ### The part of the table a key can hit -/

theorem key_lt (k : Key) : k.toNat < 0x80000 := k.isLt

theorem memReadRows_hit {k : Key} : ∀ r ∈ memReadRows, r.hits k = true → k.toNat / 0x10000 = 0 := by
  have := key_lt k
  simp only [memReadRows, List.mem_cons, List.not_mem_nil, or_false]
  rintro r (rfl | rfl | rfl | rfl | rfl | rfl | rfl | rfl | rfl | rfl | rfl | rfl | rfl | rfl | rfl | rfl) h <;>
    simp only [Row.hits, AddrRange.holds, Bool.and_eq_true, beq_iff_eq, decide_eq_true_eq, and_7E000, and_7FC00,
      and_7FE00, and_7FC02, and_78000] at h <;>
    omega

theorem memWriteRows_hit {k : Key} : ∀ r ∈ memWriteRows, r.hits k = true → k.toNat / 0x10000 = 1 := by
  have := key_lt k
  simp only [memWriteRows, List.mem_cons, List.not_mem_nil, or_false]
  rintro r (rfl | rfl | rfl | rfl | rfl | rfl | rfl | rfl | rfl | rfl | rfl | rfl | rfl | rfl | rfl | rfl) h <;>
    simp only [Row.hits, AddrRange.holds, Bool.and_eq_true, beq_iff_eq, decide_eq_true_eq, and_7E000, and_7FC00,
      and_7FE00, and_7FC02, and_78000] at h <;>
    omega

theorem cruReadRows_hit {k : Key} : ∀ r ∈ cruReadRows, r.hits k = true → k.toNat / 0x10000 = 2 := by
  have := key_lt k
  simp only [cruReadRows, List.mem_cons, List.not_mem_nil, or_false]
  rintro r (rfl | rfl | rfl | rfl | rfl | rfl | rfl) h <;>
    simp only [Row.hits, AddrRange.holds, Bool.and_eq_true, beq_iff_eq, decide_eq_true_eq, and_70FFF,
      and_71FFF, and_71000, and_70000] at h <;>
    omega

theorem cruWriteRows_hit {k : Key} : ∀ r ∈ cruWriteRows, r.hits k = true → k.toNat / 0x10000 = 3 := by
  have := key_lt k
  simp only [cruWriteRows, List.mem_cons, List.not_mem_nil, or_false]
  rintro r (rfl | rfl | rfl | rfl | rfl | rfl | rfl | rfl | rfl) h <;>
    simp only [Row.hits, AddrRange.holds, Bool.and_eq_true, beq_iff_eq, decide_eq_true_eq, and_70FFF,
      and_71FFF, and_71000, and_71800] at h <;>
    omega

theorem sidebandRows_hit {k : Key} : ∀ r ∈ sidebandRows, r.hits k = true → 4 ≤ k.toNat / 0x10000 := by
  have := key_lt k
  simp only [sidebandRows, List.mem_cons, List.not_mem_nil, or_false]
  rintro r (rfl | rfl | rfl | rfl | rfl | rfl | rfl | rfl | rfl | rfl | rfl | rfl | rfl | rfl | rfl) h <;>
    simp only [Row.hits, AddrRange.holds, Bool.and_eq_true, beq_iff_eq, and_7F000] at h <;>
    omega

/-- Rows none of which a key hits. -/
theorem find_none {rows : List Row} {k : Key} (h : ∀ r ∈ rows, ¬ r.hits k = true) :
    rows.find? (fun r => r.hits k) = none := List.find?_eq_none.2 h

theorem rowOf_parts (k : Key) :
    rowOf k = ((((memReadRows.find? fun r => r.hits k).or (memWriteRows.find? fun r => r.hits k)).or
      (cruReadRows.find? fun r => r.hits k)).or (cruWriteRows.find? fun r => r.hits k)).or
      (sidebandRows.find? fun r => r.hits k) := by
  simp only [rowOf, opcodeTable, List.find?_append]

theorem rowOf_memRead {k : Key} (h : k.toNat / 0x10000 = 0) : rowOf k = memReadRows.find? fun r => r.hits k := by
  rw [rowOf_parts, find_none (rows := memWriteRows) fun r hr hh => by have := memWriteRows_hit r hr hh; omega,
    find_none (rows := cruReadRows) fun r hr hh => by have := cruReadRows_hit r hr hh; omega,
    find_none (rows := cruWriteRows) fun r hr hh => by have := cruWriteRows_hit r hr hh; omega,
    find_none (rows := sidebandRows) fun r hr hh => by have := sidebandRows_hit r hr hh; omega]
  simp only [Option.or_none]

theorem rowOf_memWrite {k : Key} (h : k.toNat / 0x10000 = 1) : rowOf k = memWriteRows.find? fun r => r.hits k := by
  rw [rowOf_parts, find_none (rows := memReadRows) fun r hr hh => by have := memReadRows_hit r hr hh; omega,
    find_none (rows := cruReadRows) fun r hr hh => by have := cruReadRows_hit r hr hh; omega,
    find_none (rows := cruWriteRows) fun r hr hh => by have := cruWriteRows_hit r hr hh; omega,
    find_none (rows := sidebandRows) fun r hr hh => by have := sidebandRows_hit r hr hh; omega]
  simp only [Option.or_none, Option.none_or]

theorem rowOf_cruRead {k : Key} (h : k.toNat / 0x10000 = 2) : rowOf k = cruReadRows.find? fun r => r.hits k := by
  rw [rowOf_parts, find_none (rows := memReadRows) fun r hr hh => by have := memReadRows_hit r hr hh; omega,
    find_none (rows := memWriteRows) fun r hr hh => by have := memWriteRows_hit r hr hh; omega,
    find_none (rows := cruWriteRows) fun r hr hh => by have := cruWriteRows_hit r hr hh; omega,
    find_none (rows := sidebandRows) fun r hr hh => by have := sidebandRows_hit r hr hh; omega]
  simp only [Option.or_none, Option.none_or]

theorem rowOf_cruWrite {k : Key} (h : k.toNat / 0x10000 = 3) : rowOf k = cruWriteRows.find? fun r => r.hits k := by
  rw [rowOf_parts, find_none (rows := memReadRows) fun r hr hh => by have := memReadRows_hit r hr hh; omega,
    find_none (rows := memWriteRows) fun r hr hh => by have := memWriteRows_hit r hr hh; omega,
    find_none (rows := cruReadRows) fun r hr hh => by have := cruReadRows_hit r hr hh; omega,
    find_none (rows := sidebandRows) fun r hr hh => by have := sidebandRows_hit r hr hh; omega]
  simp only [Option.or_none, Option.none_or]

theorem rowOf_sideband {k : Key} (h : 4 ≤ k.toNat / 0x10000) : rowOf k = sidebandRows.find? fun r => r.hits k := by
  rw [rowOf_parts, find_none (rows := memReadRows) fun r hr hh => by have := memReadRows_hit r hr hh; omega,
    find_none (rows := memWriteRows) fun r hr hh => by have := memWriteRows_hit r hr hh; omega,
    find_none (rows := cruReadRows) fun r hr hh => by have := cruReadRows_hit r hr hh; omega,
    find_none (rows := cruWriteRows) fun r hr hh => by have := cruWriteRows_hit r hr hh; omega]
  simp only [Option.none_or]

theorem forceEven_toNat (k : Key) :
    (Key.forceEven k).toNat = if k.toNat / 0x20000 = 0 then k.toNat / 2 * 2 else k.toNat := by
  have := key_lt k
  unfold Key.forceEven Key.isMem
  by_cases h : k.toNat / 0x20000 = 0
  · simp only [h, beq_self_eq_true, if_true, BitVec.toNat_ofNat]
    omega
  · have h' : (k.toNat / 0x20000 == 0) = false := by simpa using h
    rw [if_neg h]
    simp only [h', Bool.false_eq_true, if_false]

theorem evenAddr_toNat (a : Word) : (evenAddr a).toNat = a.toNat / 2 * 2 := by
  have h : a.toNat &&& 0xFFFE = a.toNat / 2 % 0x8000 * 2 := and_block a.toNat 1 15
  have := a.isLt
  unfold evenAddr
  rw [BitVec.toNat_and]
  show a.toNat &&& 0xFFFE = _
  rw [h]
  omega

theorem Txn.addr_toNat (t : Txn) : t.addr.toNat = t.key.toNat % 0x10000 := by
  simp [Txn.addr]

theorem Txn.cruBit_toNat (t : Txn) : t.cruBit.toNat = t.key.toNat % 0x1000 := by
  simp [Txn.cruBit]

theorem Row.hits_iff (r : Row) (k : Key) :
    r.hits k = true ↔ k.toNat &&& r.mask = r.pattern ∧ r.range.holds k.toNat = true := by
  simp [Row.hits]

/-- The address of a memory key after A0 is forced to 0. -/
theorem Txn.addr_forceEven {t : Txn} (h : t.key.toNat / 0x20000 = 0) :
    Txn.addr { t with key := Key.forceEven t.key } = evenAddr t.addr := by
  apply BitVec.eq_of_toNat_eq
  rw [evenAddr_toNat, Txn.addr_toNat, Txn.addr_toNat, forceEven_toNat, if_pos h]
  show t.key.toNat / 2 * 2 % 65536 = _
  omega

theorem memRead_forceEven {t : Txn} (h : t.key.toNat / 0x20000 = 0) (mk : Word → Instr) :
    memRead mk { t with key := Key.forceEven t.key } = .ok (mk (evenAddr t.addr)) := by
  show Except.ok (mk _) = _
  rw [Txn.addr_forceEven h]

theorem memWrite_forceEven {t : Txn} (h : t.key.toNat / 0x20000 = 0) (mk : Word → Word → Instr) :
    memWrite mk { t with key := Key.forceEven t.key } = .ok (mk (evenAddr t.addr) (BitVec.ofNat 16 (t.scalar 0))) := by
  show Except.ok (mk _ _) = _
  rw [Txn.addr_forceEven h]
  rfl

/-- A key that is no memory key is decoded as it stands. -/
theorem decode_high {t : Txn} (h : 0x20000 ≤ t.key.toNat) :
    decode t =
      match rowOf t.key with
      | some r => r.build t
      | none => .error (.unusedSidebandId (t.key.toNat / 0x1000 % 64)) := by
  have hk : Key.forceEven t.key = t.key := BitVec.eq_of_toNat_eq (by rw [forceEven_toNat, if_neg (by omega)])
  rw [decode, hk] <;> rfl

/-! ### Memory rows -/

theorem decode_mrdRom {t : Txn} (h : t.key.toNat / 0x2000 = 0) :
    decode t = .ok (.mrdRom (evenAddr t.addr)) := by
  have hk := forceEven_toNat t.key
  rw [if_pos (by omega)] at hk
  rw [decode, rowOf_memRead (by omega)]
  simp (disch := (simp only [Row.hits_iff, and_7E000, and_7FC00, and_7FE00, and_7FC02, and_78000, AddrRange.holds,
    decide_eq_true_eq, and_true]; omega)) only [memReadRows, List.find?_cons_of_pos]
  exact memRead_forceEven (by omega) _

theorem decode_mrdLoram {t : Txn} (h : t.key.toNat / 0x2000 = 1) :
    decode t = .ok (.mrdLoram (evenAddr t.addr)) := by
  have hk := forceEven_toNat t.key
  rw [if_pos (by omega)] at hk
  rw [decode, rowOf_memRead (by omega)]
  simp (disch := (simp only [Row.hits_iff, and_7E000, and_7FC00, and_7FE00, and_7FC02, and_78000, AddrRange.holds,
    decide_eq_true_eq, and_true]; omega)) only [memReadRows, List.find?_cons_of_neg, List.find?_cons_of_pos]
  exact memRead_forceEven (by omega) _

theorem decode_mrdPeriph {t : Txn} (h : t.key.toNat / 0x2000 = 2) :
    decode t = .ok (.mrdPeriph (evenAddr t.addr)) := by
  have hk := forceEven_toNat t.key
  rw [if_pos (by omega)] at hk
  rw [decode, rowOf_memRead (by omega)]
  simp (disch := (simp only [Row.hits_iff, and_7E000, and_7FC00, and_7FE00, and_7FC02, and_78000, AddrRange.holds,
    decide_eq_true_eq, and_true]; omega)) only [memReadRows, List.find?_cons_of_neg, List.find?_cons_of_pos]
  exact memRead_forceEven (by omega) _

theorem decode_mrdCart {t : Txn} (h : t.key.toNat / 0x2000 = 3) :
    decode t = .ok (.mrdCart (evenAddr t.addr)) := by
  have hk := forceEven_toNat t.key
  rw [if_pos (by omega)] at hk
  rw [decode, rowOf_memRead (by omega)]
  simp (disch := (simp only [Row.hits_iff, and_7E000, and_7FC00, and_7FE00, and_7FC02, and_78000, AddrRange.holds,
    decide_eq_true_eq, and_true]; omega)) only [memReadRows, List.find?_cons_of_neg, List.find?_cons_of_pos]
  exact memRead_forceEven (by omega) _

theorem decode_mrdPad {t : Txn} (h : t.key.toNat / 0x400 = 0x20) :
    decode t = .ok (.mrdPad (evenAddr t.addr)) := by
  have hk := forceEven_toNat t.key
  rw [if_pos (by omega)] at hk
  rw [decode, rowOf_memRead (by omega)]
  simp (disch := (simp only [Row.hits_iff, and_7E000, and_7FC00, and_7FE00, and_7FC02, and_78000, AddrRange.holds,
    decide_eq_true_eq, and_true]; omega)) only [memReadRows, List.find?_cons_of_neg, List.find?_cons_of_pos]
  exact memRead_forceEven (by omega) _

theorem decode_mrdSound {t : Txn} (h : t.key.toNat / 0x200 = 0x42) :
    decode t = .ok (.mrdSound (evenAddr t.addr)) := by
  have hk := forceEven_toNat t.key
  rw [if_pos (by omega)] at hk
  rw [decode, rowOf_memRead (by omega)]
  simp (disch := (simp only [Row.hits_iff, and_7E000, and_7FC00, and_7FE00, and_7FC02, and_78000, AddrRange.holds,
    decide_eq_true_eq, and_true]; omega)) only [memReadRows, List.find?_cons_of_neg, List.find?_cons_of_pos]
  exact memRead_forceEven (by omega) _

theorem decode_mrdGap {t : Txn} (h : t.key.toNat / 0x200 = 0x43) :
    decode t = .ok (.mrdGap (evenAddr t.addr)) := by
  have hk := forceEven_toNat t.key
  rw [if_pos (by omega)] at hk
  rw [decode, rowOf_memRead (by omega)]
  simp (disch := (simp only [Row.hits_iff, and_7E000, and_7FC00, and_7FE00, and_7FC02, and_78000, AddrRange.holds,
    decide_eq_true_eq, and_true]; omega)) only [memReadRows, List.find?_cons_of_neg, List.find?_cons_of_pos]
  exact memRead_forceEven (by omega) _

theorem decode_mrdVdpData {t : Txn} (h : t.key.toNat / 0x400 = 0x22) (h' : t.key.toNat / 2 % 2 = 0) :
    decode t = .ok (.mrdVdpData (evenAddr t.addr)) := by
  have hk := forceEven_toNat t.key
  rw [if_pos (by omega)] at hk
  rw [decode, rowOf_memRead (by omega)]
  simp (disch := (simp only [Row.hits_iff, and_7E000, and_7FC00, and_7FE00, and_7FC02, and_78000, AddrRange.holds,
    decide_eq_true_eq, and_true]; omega)) only [memReadRows, List.find?_cons_of_neg, List.find?_cons_of_pos]
  exact memRead_forceEven (by omega) _

theorem decode_mrdVdpStat {t : Txn} (h : t.key.toNat / 0x400 = 0x22) (h' : t.key.toNat / 2 % 2 = 1) :
    decode t = .ok (.mrdVdpStat (evenAddr t.addr)) := by
  have hk := forceEven_toNat t.key
  rw [if_pos (by omega)] at hk
  rw [decode, rowOf_memRead (by omega)]
  simp (disch := (simp only [Row.hits_iff, and_7E000, and_7FC00, and_7FE00, and_7FC02, and_78000, AddrRange.holds,
    decide_eq_true_eq, and_true]; omega)) only [memReadRows, List.find?_cons_of_neg, List.find?_cons_of_pos]
  exact memRead_forceEven (by omega) _

theorem decode_mrdVdpWp {t : Txn} (h : t.key.toNat / 0x400 = 0x23) :
    decode t = .ok (.mrdVdpWp (evenAddr t.addr)) := by
  have hk := forceEven_toNat t.key
  rw [if_pos (by omega)] at hk
  rw [decode, rowOf_memRead (by omega)]
  simp (disch := (simp only [Row.hits_iff, and_7E000, and_7FC00, and_7FE00, and_7FC02, and_78000, AddrRange.holds,
    decide_eq_true_eq, and_true]; omega)) only [memReadRows, List.find?_cons_of_neg, List.find?_cons_of_pos]
  exact memRead_forceEven (by omega) _

theorem decode_mrdSpch {t : Txn} (h : t.key.toNat / 0x400 = 0x24) :
    decode t = .ok (.mrdSpch (evenAddr t.addr)) := by
  have hk := forceEven_toNat t.key
  rw [if_pos (by omega)] at hk
  rw [decode, rowOf_memRead (by omega)]
  simp (disch := (simp only [Row.hits_iff, and_7E000, and_7FC00, and_7FE00, and_7FC02, and_78000, AddrRange.holds,
    decide_eq_true_eq, and_true]; omega)) only [memReadRows, List.find?_cons_of_neg, List.find?_cons_of_pos]
  exact memRead_forceEven (by omega) _

theorem decode_mrdSpchWp {t : Txn} (h : t.key.toNat / 0x400 = 0x25) :
    decode t = .ok (.mrdSpchWp (evenAddr t.addr)) := by
  have hk := forceEven_toNat t.key
  rw [if_pos (by omega)] at hk
  rw [decode, rowOf_memRead (by omega)]
  simp (disch := (simp only [Row.hits_iff, and_7E000, and_7FC00, and_7FE00, and_7FC02, and_78000, AddrRange.holds,
    decide_eq_true_eq, and_true]; omega)) only [memReadRows, List.find?_cons_of_neg, List.find?_cons_of_pos]
  exact memRead_forceEven (by omega) _

theorem decode_mrdGrData {t : Txn} (h : t.key.toNat / 0x400 = 0x26) (h' : t.key.toNat / 2 % 2 = 0) :
    decode t = .ok (.mrdGrData (evenAddr t.addr)) := by
  have hk := forceEven_toNat t.key
  rw [if_pos (by omega)] at hk
  rw [decode, rowOf_memRead (by omega)]
  simp (disch := (simp only [Row.hits_iff, and_7E000, and_7FC00, and_7FE00, and_7FC02, and_78000, AddrRange.holds,
    decide_eq_true_eq, and_true]; omega)) only [memReadRows, List.find?_cons_of_neg, List.find?_cons_of_pos]
  exact memRead_forceEven (by omega) _

theorem decode_mrdGrAddr {t : Txn} (h : t.key.toNat / 0x400 = 0x26) (h' : t.key.toNat / 2 % 2 = 1) :
    decode t = .ok (.mrdGrAddr (evenAddr t.addr)) := by
  have hk := forceEven_toNat t.key
  rw [if_pos (by omega)] at hk
  rw [decode, rowOf_memRead (by omega)]
  simp (disch := (simp only [Row.hits_iff, and_7E000, and_7FC00, and_7FE00, and_7FC02, and_78000, AddrRange.holds,
    decide_eq_true_eq, and_true]; omega)) only [memReadRows, List.find?_cons_of_neg, List.find?_cons_of_pos]
  exact memRead_forceEven (by omega) _

theorem decode_mrdGrWp {t : Txn} (h : t.key.toNat / 0x400 = 0x27) :
    decode t = .ok (.mrdGrWp (evenAddr t.addr)) := by
  have hk := forceEven_toNat t.key
  rw [if_pos (by omega)] at hk
  rw [decode, rowOf_memRead (by omega)]
  simp (disch := (simp only [Row.hits_iff, and_7E000, and_7FC00, and_7FE00, and_7FC02, and_78000, AddrRange.holds,
    decide_eq_true_eq, and_true]; omega)) only [memReadRows, List.find?_cons_of_neg, List.find?_cons_of_pos]
  exact memRead_forceEven (by omega) _

theorem decode_mrdHiram {t : Txn} (h : 0xA000 ≤ t.key.toNat) (h' : t.key.toNat < 0x10000) :
    decode t = .ok (.mrdHiram (evenAddr t.addr)) := by
  have hk := forceEven_toNat t.key
  rw [if_pos (by omega)] at hk
  rw [decode, rowOf_memRead (by omega)]
  simp (disch := (simp only [Row.hits_iff, and_7E000, and_7FC00, and_7FE00, and_7FC02, and_78000, AddrRange.holds,
    decide_eq_true_eq, and_true]; omega)) only [memReadRows, List.find?_cons_of_neg, List.find?_cons_of_pos]
  exact memRead_forceEven (by omega) _

theorem decode_mwrRom {t : Txn} (h : t.key.toNat / 0x2000 = 8) :
    decode t = .ok (.mwrRom (evenAddr t.addr) (BitVec.ofNat 16 (t.scalar 0))) := by
  have hk := forceEven_toNat t.key
  rw [if_pos (by omega)] at hk
  rw [decode, rowOf_memWrite (by omega)]
  simp (disch := (simp only [Row.hits_iff, and_7E000, and_7FC00, and_7FE00, and_7FC02, and_78000, AddrRange.holds,
    decide_eq_true_eq, and_true]; omega)) only [memWriteRows, List.find?_cons_of_pos]
  exact memWrite_forceEven (by omega) _

theorem decode_mwrLoram {t : Txn} (h : t.key.toNat / 0x2000 = 9) :
    decode t = .ok (.mwrLoram (evenAddr t.addr) (BitVec.ofNat 16 (t.scalar 0))) := by
  have hk := forceEven_toNat t.key
  rw [if_pos (by omega)] at hk
  rw [decode, rowOf_memWrite (by omega)]
  simp (disch := (simp only [Row.hits_iff, and_7E000, and_7FC00, and_7FE00, and_7FC02, and_78000, AddrRange.holds,
    decide_eq_true_eq, and_true]; omega)) only [memWriteRows, List.find?_cons_of_neg, List.find?_cons_of_pos]
  exact memWrite_forceEven (by omega) _

theorem decode_mwrPeriph {t : Txn} (h : t.key.toNat / 0x2000 = 10) :
    decode t = .ok (.mwrPeriph (evenAddr t.addr) (BitVec.ofNat 16 (t.scalar 0))) := by
  have hk := forceEven_toNat t.key
  rw [if_pos (by omega)] at hk
  rw [decode, rowOf_memWrite (by omega)]
  simp (disch := (simp only [Row.hits_iff, and_7E000, and_7FC00, and_7FE00, and_7FC02, and_78000, AddrRange.holds,
    decide_eq_true_eq, and_true]; omega)) only [memWriteRows, List.find?_cons_of_neg, List.find?_cons_of_pos]
  exact memWrite_forceEven (by omega) _

theorem decode_mwrCart {t : Txn} (h : t.key.toNat / 0x2000 = 11) :
    decode t = .ok (.mwrCart (evenAddr t.addr) (BitVec.ofNat 16 (t.scalar 0))) := by
  have hk := forceEven_toNat t.key
  rw [if_pos (by omega)] at hk
  rw [decode, rowOf_memWrite (by omega)]
  simp (disch := (simp only [Row.hits_iff, and_7E000, and_7FC00, and_7FE00, and_7FC02, and_78000, AddrRange.holds,
    decide_eq_true_eq, and_true]; omega)) only [memWriteRows, List.find?_cons_of_neg, List.find?_cons_of_pos]
  exact memWrite_forceEven (by omega) _

theorem decode_mwrPad {t : Txn} (h : t.key.toNat / 0x400 = 0x60) :
    decode t = .ok (.mwrPad (evenAddr t.addr) (BitVec.ofNat 16 (t.scalar 0))) := by
  have hk := forceEven_toNat t.key
  rw [if_pos (by omega)] at hk
  rw [decode, rowOf_memWrite (by omega)]
  simp (disch := (simp only [Row.hits_iff, and_7E000, and_7FC00, and_7FE00, and_7FC02, and_78000, AddrRange.holds,
    decide_eq_true_eq, and_true]; omega)) only [memWriteRows, List.find?_cons_of_neg, List.find?_cons_of_pos]
  exact memWrite_forceEven (by omega) _

theorem decode_mwrSound {t : Txn} (h : t.key.toNat / 0x200 = 0xC2) :
    decode t = .ok (.mwrSound (evenAddr t.addr) (BitVec.ofNat 16 (t.scalar 0))) := by
  have hk := forceEven_toNat t.key
  rw [if_pos (by omega)] at hk
  rw [decode, rowOf_memWrite (by omega)]
  simp (disch := (simp only [Row.hits_iff, and_7E000, and_7FC00, and_7FE00, and_7FC02, and_78000, AddrRange.holds,
    decide_eq_true_eq, and_true]; omega)) only [memWriteRows, List.find?_cons_of_neg, List.find?_cons_of_pos]
  exact memWrite_forceEven (by omega) _

theorem decode_mwrGap {t : Txn} (h : t.key.toNat / 0x200 = 0xC3) :
    decode t = .ok (.mwrGap (evenAddr t.addr) (BitVec.ofNat 16 (t.scalar 0))) := by
  have hk := forceEven_toNat t.key
  rw [if_pos (by omega)] at hk
  rw [decode, rowOf_memWrite (by omega)]
  simp (disch := (simp only [Row.hits_iff, and_7E000, and_7FC00, and_7FE00, and_7FC02, and_78000, AddrRange.holds,
    decide_eq_true_eq, and_true]; omega)) only [memWriteRows, List.find?_cons_of_neg, List.find?_cons_of_pos]
  exact memWrite_forceEven (by omega) _

theorem decode_mwrVdpRp {t : Txn} (h : t.key.toNat / 0x400 = 0x62) :
    decode t = .ok (.mwrVdpRp (evenAddr t.addr) (BitVec.ofNat 16 (t.scalar 0))) := by
  have hk := forceEven_toNat t.key
  rw [if_pos (by omega)] at hk
  rw [decode, rowOf_memWrite (by omega)]
  simp (disch := (simp only [Row.hits_iff, and_7E000, and_7FC00, and_7FE00, and_7FC02, and_78000, AddrRange.holds,
    decide_eq_true_eq, and_true]; omega)) only [memWriteRows, List.find?_cons_of_neg, List.find?_cons_of_pos]
  exact memWrite_forceEven (by omega) _

theorem decode_mwrVdpData {t : Txn} (h : t.key.toNat / 0x400 = 0x63) (h' : t.key.toNat / 2 % 2 = 0) :
    decode t = .ok (.mwrVdpData (evenAddr t.addr) (BitVec.ofNat 16 (t.scalar 0))) := by
  have hk := forceEven_toNat t.key
  rw [if_pos (by omega)] at hk
  rw [decode, rowOf_memWrite (by omega)]
  simp (disch := (simp only [Row.hits_iff, and_7E000, and_7FC00, and_7FE00, and_7FC02, and_78000, AddrRange.holds,
    decide_eq_true_eq, and_true]; omega)) only [memWriteRows, List.find?_cons_of_neg, List.find?_cons_of_pos]
  exact memWrite_forceEven (by omega) _

theorem decode_mwrVdpAddr {t : Txn} (h : t.key.toNat / 0x400 = 0x63) (h' : t.key.toNat / 2 % 2 = 1) :
    decode t = .ok (.mwrVdpAddr (evenAddr t.addr) (BitVec.ofNat 16 (t.scalar 0))) := by
  have hk := forceEven_toNat t.key
  rw [if_pos (by omega)] at hk
  rw [decode, rowOf_memWrite (by omega)]
  simp (disch := (simp only [Row.hits_iff, and_7E000, and_7FC00, and_7FE00, and_7FC02, and_78000, AddrRange.holds,
    decide_eq_true_eq, and_true]; omega)) only [memWriteRows, List.find?_cons_of_neg, List.find?_cons_of_pos]
  exact memWrite_forceEven (by omega) _

theorem decode_mwrSpchRp {t : Txn} (h : t.key.toNat / 0x400 = 0x64) :
    decode t = .ok (.mwrSpchRp (evenAddr t.addr) (BitVec.ofNat 16 (t.scalar 0))) := by
  have hk := forceEven_toNat t.key
  rw [if_pos (by omega)] at hk
  rw [decode, rowOf_memWrite (by omega)]
  simp (disch := (simp only [Row.hits_iff, and_7E000, and_7FC00, and_7FE00, and_7FC02, and_78000, AddrRange.holds,
    decide_eq_true_eq, and_true]; omega)) only [memWriteRows, List.find?_cons_of_neg, List.find?_cons_of_pos]
  exact memWrite_forceEven (by omega) _

theorem decode_mwrSpch {t : Txn} (h : t.key.toNat / 0x400 = 0x65) :
    decode t = .ok (.mwrSpch (evenAddr t.addr) (BitVec.ofNat 16 (t.scalar 0))) := by
  have hk := forceEven_toNat t.key
  rw [if_pos (by omega)] at hk
  rw [decode, rowOf_memWrite (by omega)]
  simp (disch := (simp only [Row.hits_iff, and_7E000, and_7FC00, and_7FE00, and_7FC02, and_78000, AddrRange.holds,
    decide_eq_true_eq, and_true]; omega)) only [memWriteRows, List.find?_cons_of_neg, List.find?_cons_of_pos]
  exact memWrite_forceEven (by omega) _

theorem decode_mwrGrRp {t : Txn} (h : t.key.toNat / 0x400 = 0x66) :
    decode t = .ok (.mwrGrRp (evenAddr t.addr) (BitVec.ofNat 16 (t.scalar 0))) := by
  have hk := forceEven_toNat t.key
  rw [if_pos (by omega)] at hk
  rw [decode, rowOf_memWrite (by omega)]
  simp (disch := (simp only [Row.hits_iff, and_7E000, and_7FC00, and_7FE00, and_7FC02, and_78000, AddrRange.holds,
    decide_eq_true_eq, and_true]; omega)) only [memWriteRows, List.find?_cons_of_neg, List.find?_cons_of_pos]
  exact memWrite_forceEven (by omega) _

theorem decode_mwrGrData {t : Txn} (h : t.key.toNat / 0x400 = 0x67) (h' : t.key.toNat / 2 % 2 = 0) :
    decode t = .ok (.mwrGrData (evenAddr t.addr) (BitVec.ofNat 16 (t.scalar 0))) := by
  have hk := forceEven_toNat t.key
  rw [if_pos (by omega)] at hk
  rw [decode, rowOf_memWrite (by omega)]
  simp (disch := (simp only [Row.hits_iff, and_7E000, and_7FC00, and_7FE00, and_7FC02, and_78000, AddrRange.holds,
    decide_eq_true_eq, and_true]; omega)) only [memWriteRows, List.find?_cons_of_neg, List.find?_cons_of_pos]
  exact memWrite_forceEven (by omega) _

theorem decode_mwrGrAddr {t : Txn} (h : t.key.toNat / 0x400 = 0x67) (h' : t.key.toNat / 2 % 2 = 1) :
    decode t = .ok (.mwrGrAddr (evenAddr t.addr) (BitVec.ofNat 16 (t.scalar 0))) := by
  have hk := forceEven_toNat t.key
  rw [if_pos (by omega)] at hk
  rw [decode, rowOf_memWrite (by omega)]
  simp (disch := (simp only [Row.hits_iff, and_7E000, and_7FC00, and_7FE00, and_7FC02, and_78000, AddrRange.holds,
    decide_eq_true_eq, and_true]; omega)) only [memWriteRows, List.find?_cons_of_neg, List.find?_cons_of_pos]
  exact memWrite_forceEven (by omega) _

theorem decode_mwrHiram {t : Txn} (h : 0x1A000 ≤ t.key.toNat) (h' : t.key.toNat < 0x20000) :
    decode t = .ok (.mwrHiram (evenAddr t.addr) (BitVec.ofNat 16 (t.scalar 0))) := by
  have hk := forceEven_toNat t.key
  rw [if_pos (by omega)] at hk
  rw [decode, rowOf_memWrite (by omega)]
  simp (disch := (simp only [Row.hits_iff, and_7E000, and_7FC00, and_7FE00, and_7FC02, and_78000, AddrRange.holds,
    decide_eq_true_eq, and_true]; omega)) only [memWriteRows, List.find?_cons_of_neg, List.find?_cons_of_pos]
  exact memWrite_forceEven (by omega) _

/-! ### CRU rows -/

theorem decode_crdMode {t : Txn} (h : t.key.toNat / 0x10000 = 2) (h' : t.key.toNat % 0x1000 = 0) :
    decode t = .ok (.crdMode) := by
  rw [decode_high (by omega), rowOf_cruRead (by omega)]
  simp (disch := (simp only [Row.hits_iff, and_70FFF, and_71FFF, and_71000, and_71800, and_70000, AddrRange.holds,
    decide_eq_true_eq, and_true]; omega)) only [cruReadRows, List.find?_cons_of_pos]
  rfl

theorem decode_crdTInt {t : Txn} (h : t.key.toNat / 0x10000 = 2) (h' : t.key.toNat % 0x2000 = 0x100F) :
    decode t = .ok (.crdTInt) := by
  rw [decode_high (by omega), rowOf_cruRead (by omega)]
  simp (disch := (simp only [Row.hits_iff, and_70FFF, and_71FFF, and_71000, and_71800, and_70000, AddrRange.holds,
    decide_eq_true_eq, and_true]; omega)) only [cruReadRows, List.find?_cons_of_neg, List.find?_cons_of_pos]
  rfl

theorem decode_crdTClk {t : Txn} (h : t.key.toNat / 0x10000 = 2) (h' : 0x1001 ≤ t.key.toNat % 0x2000) (h'' :
    t.key.toNat % 0x2000 ≤ 0x100E) :
    decode t = .ok (.crdTClk t.cruBit) := by
  rw [decode_high (by omega), rowOf_cruRead (by omega)]
  simp (disch := (simp only [Row.hits_iff, and_70FFF, and_71FFF, and_71000, and_71800, and_70000, AddrRange.holds,
    decide_eq_true_eq, and_true]; omega)) only [cruReadRows, List.find?_cons_of_neg, List.find?_cons_of_pos]
  rfl

theorem decode_crdNVdp {t : Txn} (h : t.key.toNat / 0x10000 = 2) (h' : t.key.toNat % 0x2000 = 2) :
    decode t = .ok (.crdNVdp) := by
  rw [decode_high (by omega), rowOf_cruRead (by omega)]
  simp (disch := (simp only [Row.hits_iff, and_70FFF, and_71FFF, and_71000, and_71800, and_70000, AddrRange.holds,
    decide_eq_true_eq, and_true]; omega)) only [cruReadRows, List.find?_cons_of_neg, List.find?_cons_of_pos]
  rfl

theorem decode_crdNKbd {t : Txn} (h : t.key.toNat / 0x10000 = 2) (h' : 3 ≤ t.key.toNat % 0x2000) (h'' : t.key.toNat
    % 0x2000 ≤ 10) :
    decode t = .ok (.crdNKbd t.cruBit) := by
  rw [decode_high (by omega), rowOf_cruRead (by omega)]
  simp (disch := (simp only [Row.hits_iff, and_70FFF, and_71FFF, and_71000, and_71800, and_70000, AddrRange.holds,
    decide_eq_true_eq, and_true]; omega)) only [cruReadRows, List.find?_cons_of_neg, List.find?_cons_of_pos]
  rfl

theorem decode_crdTapeIn {t : Txn} (h : t.key.toNat / 0x10000 = 2) (h' : t.key.toNat % 0x1000 = 27) :
    decode t = .ok (.crdTapeIn) := by
  rw [decode_high (by omega), rowOf_cruRead (by omega)]
  simp (disch := (simp only [Row.hits_iff, and_70FFF, and_71FFF, and_71000, and_71800, and_70000, AddrRange.holds,
    decide_eq_true_eq, and_true]; omega)) only [cruReadRows, List.find?_cons_of_neg, List.find?_cons_of_pos]
  rfl

theorem decode_crdStored {t : Txn} (h : t.key.toNat / 0x10000 = 2) (h' : t.key.toNat % 0x1000 ≠ 0 ∧ t.key.toNat %
    0x1000 ≠ 27) (h'' : t.key.toNat % 0x2000 < 0x1001 ∨ 0x100F < t.key.toNat % 0x2000) (h''' : t.key.toNat % 0x2000
    = 1 ∨ 10 < t.key.toNat % 0x2000) :
    decode t = .ok (.crdStored t.cruBit) := by
  rw [decode_high (by omega), rowOf_cruRead (by omega)]
  simp (disch := (simp only [Row.hits_iff, and_70FFF, and_71FFF, and_71000, and_71800, and_70000, AddrRange.holds,
    decide_eq_true_eq, and_true]; omega)) only [cruReadRows, List.find?_cons_of_neg, List.find?_cons_of_pos]
  rfl

theorem decode_cwrMode {t : Txn} (h : t.key.toNat / 0x10000 = 3) (h' : t.key.toNat % 0x1000 = 0) :
    decode t = .ok (.cwrMode t.cruData) := by
  rw [decode_high (by omega), rowOf_cruWrite (by omega)]
  simp (disch := (simp only [Row.hits_iff, and_70FFF, and_71FFF, and_71000, and_71800, and_70000, AddrRange.holds,
    decide_eq_true_eq, and_true]; omega)) only [cruWriteRows, List.find?_cons_of_pos]
  rfl

theorem decode_cwrTClk {t : Txn} (h : t.key.toNat / 0x10000 = 3) (h' : 0x1001 ≤ t.key.toNat % 0x2000) (h'' :
    t.key.toNat % 0x2000 ≤ 0x100E) :
    decode t = .ok (.cwrTClk t.cruBit t.cruData) := by
  rw [decode_high (by omega), rowOf_cruWrite (by omega)]
  simp (disch := (simp only [Row.hits_iff, and_70FFF, and_71FFF, and_71000, and_71800, and_70000, AddrRange.holds,
    decide_eq_true_eq, and_true]; omega)) only [cruWriteRows, List.find?_cons_of_neg, List.find?_cons_of_pos]
  rfl

theorem decode_cwrTB15 {t : Txn} (h : t.key.toNat / 0x10000 = 3) (h' : t.key.toNat % 0x2000 = 0x100F) :
    decode t = .ok (.cwrTB15 t.cruData) := by
  rw [decode_high (by omega), rowOf_cruWrite (by omega)]
  simp (disch := (simp only [Row.hits_iff, and_70FFF, and_71FFF, and_71000, and_71800, and_70000, AddrRange.holds,
    decide_eq_true_eq, and_true]; omega)) only [cruWriteRows, List.find?_cons_of_neg, List.find?_cons_of_pos]
  rfl

theorem decode_cwrTExit {t : Txn} (h : t.key.toNat / 0x10000 = 3) (h' : 0x1010 ≤ t.key.toNat % 0x2000) :
    decode t = .ok (.cwrTExit t.cruBit t.cruData) := by
  rw [decode_high (by omega), rowOf_cruWrite (by omega)]
  simp (disch := (simp only [Row.hits_iff, and_70FFF, and_71FFF, and_71000, and_71800, and_70000, AddrRange.holds,
    decide_eq_true_eq, and_true]; omega)) only [cruWriteRows, List.find?_cons_of_neg, List.find?_cons_of_pos]
  rfl

theorem decode_cwrNAck {t : Txn} (h : t.key.toNat / 0x10000 = 3) (h' : t.key.toNat % 0x2000 = 3) :
    decode t = .ok (.cwrNAck t.cruData) := by
  rw [decode_high (by omega), rowOf_cruWrite (by omega)]
  simp (disch := (simp only [Row.hits_iff, and_70FFF, and_71FFF, and_71000, and_71800, and_70000, AddrRange.holds,
    decide_eq_true_eq, and_true]; omega)) only [cruWriteRows, List.find?_cons_of_neg, List.find?_cons_of_pos]
  rfl

theorem decode_cwrNMotor {t : Txn} (h : t.key.toNat / 0x10000 = 3) (h' : t.key.toNat % 0x2000 = 22) :
    decode t = .ok (.cwrNMotor t.cruData) := by
  rw [decode_high (by omega), rowOf_cruWrite (by omega)]
  simp (disch := (simp only [Row.hits_iff, and_70FFF, and_71FFF, and_71000, and_71800, and_70000, AddrRange.holds,
    decide_eq_true_eq, and_true]; omega)) only [cruWriteRows, List.find?_cons_of_neg, List.find?_cons_of_pos]
  rfl

theorem decode_cwrNTapeOut {t : Txn} (h : t.key.toNat / 0x10000 = 3) (h' : t.key.toNat % 0x2000 = 25) :
    decode t = .ok (.cwrNTapeOut t.cruData) := by
  rw [decode_high (by omega), rowOf_cruWrite (by omega)]
  simp (disch := (simp only [Row.hits_iff, and_70FFF, and_71FFF, and_71000, and_71800, and_70000, AddrRange.holds,
    decide_eq_true_eq, and_true]; omega)) only [cruWriteRows, List.find?_cons_of_neg, List.find?_cons_of_pos]
  rfl

theorem decode_cwrDsr {t : Txn} (h : t.key.toNat / 0x10000 = 3) (h' : 0x800 ≤ t.key.toNat % 0x2000) (h'' :
    t.key.toNat % 0x2000 < 0x1000) :
    decode t = .ok (.cwrDsr t.cruBit t.cruData) := by
  rw [decode_high (by omega), rowOf_cruWrite (by omega)]
  simp (disch := (simp only [Row.hits_iff, and_70FFF, and_71FFF, and_71000, and_71800, and_70000, AddrRange.holds,
    decide_eq_true_eq, and_true]; omega)) only [cruWriteRows, List.find?_cons_of_neg, List.find?_cons_of_pos]
  rfl

theorem decode_cwrNStore {t : Txn} (h : t.key.toNat / 0x10000 = 3) (h' : 0 < t.key.toNat % 0x2000 ∧ t.key.toNat %
    0x2000 < 0x800) (h'' : t.key.toNat % 0x2000 ≠ 3 ∧ t.key.toNat % 0x2000 ≠ 22 ∧ t.key.toNat % 0x2000 ≠ 25) :
    decode t = .ok (.cwrNStore t.cruBit t.cruData) := by
  rw [decode_high (by omega), rowOf_cruWrite (by omega)]
  simp (disch := (simp only [Row.hits_iff, and_70FFF, and_71FFF, and_71000, and_71800, and_70000, AddrRange.holds,
    decide_eq_true_eq, and_true]; omega)) only [cruWriteRows, List.find?_cons_of_neg, List.find?_cons_of_pos]
  rfl

/-! ### Sideband rows -/

theorem decode_id_tick {t : Txn} (h : t.key.toNat / 0x1000 = 0x40) :
    decode t = .ok (.tick (t.scalar 0)) := by
  rw [decode_high (by omega), rowOf_sideband (by omega)]
  simp (disch := (simp only [Row.hits_iff, and_7F000, AddrRange.holds, and_true]; omega)) only [sidebandRows,
    List.find?_cons_of_pos]

theorem decode_id_vdpint {t : Txn} (h : t.key.toNat / 0x1000 = 0x41) :
    decode t = bitOperand "VDPINT" .vdpInt t := by
  rw [decode_high (by omega), rowOf_sideband (by omega)]
  simp (disch := (simp only [Row.hits_iff, and_7F000, AddrRange.holds, and_true]; omega)) only [sidebandRows,
    List.find?_cons_of_neg, List.find?_cons_of_pos]

theorem decode_id_reset {t : Txn} (h : t.key.toNat / 0x1000 = 0x42) :
    decode t = readReset t := by
  rw [decode_high (by omega), rowOf_sideband (by omega)]
  simp (disch := (simp only [Row.hits_iff, and_7F000, AddrRange.holds, and_true]; omega)) only [sidebandRows,
    List.find?_cons_of_neg, List.find?_cons_of_pos]

theorem decode_id_loadRam {t : Txn} (h : t.key.toNat / 0x1000 = 0x43) :
    decode t = readLoadRam t := by
  rw [decode_high (by omega), rowOf_sideband (by omega)]
  simp (disch := (simp only [Row.hits_iff, and_7F000, AddrRange.holds, and_true]; omega)) only [sidebandRows,
    List.find?_cons_of_neg, List.find?_cons_of_pos]

theorem decode_id_loadGrom {t : Txn} (h : t.key.toNat / 0x1000 = 0x44) :
    decode t = readLoadGrom t := by
  rw [decode_high (by omega), rowOf_sideband (by omega)]
  simp (disch := (simp only [Row.hits_iff, and_7F000, AddrRange.holds, and_true]; omega)) only [sidebandRows,
    List.find?_cons_of_neg, List.find?_cons_of_pos]

theorem decode_id_loadCart {t : Txn} (h : t.key.toNat / 0x1000 = 0x45) :
    decode t = readLoadCart t := by
  rw [decode_high (by omega), rowOf_sideband (by omega)]
  simp (disch := (simp only [Row.hits_iff, and_7F000, AddrRange.holds, and_true]; omega)) only [sidebandRows,
    List.find?_cons_of_neg, List.find?_cons_of_pos]

theorem decode_id_loadDsr {t : Txn} (h : t.key.toNat / 0x1000 = 0x46) :
    decode t = readLoadDsr t := by
  rw [decode_high (by omega), rowOf_sideband (by omega)]
  simp (disch := (simp only [Row.hits_iff, and_7F000, AddrRange.holds, and_true]; omega)) only [sidebandRows,
    List.find?_cons_of_neg, List.find?_cons_of_pos]

theorem decode_id_setRam32K {t : Txn} (h : t.key.toNat / 0x1000 = 0x47) :
    decode t = bitOperand "SET_RAM32K" .setRam32k t := by
  rw [decode_high (by omega), rowOf_sideband (by omega)]
  simp (disch := (simp only [Row.hits_iff, and_7F000, AddrRange.holds, and_true]; omega)) only [sidebandRows,
    List.find?_cons_of_neg, List.find?_cons_of_pos]

theorem decode_id_setAms {t : Txn} (h : t.key.toNat / 0x1000 = 0x48) :
    decode t = bitOperand "SET_AMS" .setAms t := by
  rw [decode_high (by omega), rowOf_sideband (by omega)]
  simp (disch := (simp only [Row.hits_iff, and_7F000, AddrRange.holds, and_true]; omega)) only [sidebandRows,
    List.find?_cons_of_neg, List.find?_cons_of_pos]

theorem decode_id_setGram {t : Txn} (h : t.key.toNat / 0x1000 = 0x49) :
    decode t = bitOperand "SET_GRAM" .setGram t := by
  rw [decode_high (by omega), rowOf_sideband (by omega)]
  simp (disch := (simp only [Row.hits_iff, and_7F000, AddrRange.holds, and_true]; omega)) only [sidebandRows,
    List.find?_cons_of_neg, List.find?_cons_of_pos]

theorem decode_id_getState {t : Txn} (h : t.key.toNat / 0x1000 = 0x4A) :
    decode t = bare .getState t := by
  rw [decode_high (by omega), rowOf_sideband (by omega)]
  simp (disch := (simp only [Row.hits_iff, and_7F000, AddrRange.holds, and_true]; omega)) only [sidebandRows,
    List.find?_cons_of_neg, List.find?_cons_of_pos]

theorem decode_id_restoreState {t : Txn} (h : t.key.toNat / 0x1000 = 0x4B) :
    decode t = .ok (.restoreState t.snap) := by
  rw [decode_high (by omega), rowOf_sideband (by omega)]
  simp (disch := (simp only [Row.hits_iff, and_7F000, AddrRange.holds, and_true]; omega)) only [sidebandRows,
    List.find?_cons_of_neg, List.find?_cons_of_pos]

theorem decode_id_dbgRdb {t : Txn} (h : t.key.toNat / 0x1000 = 0x4C) :
    decode t = addrOperand "DBG_RDB" .dbgRdb t := by
  rw [decode_high (by omega), rowOf_sideband (by omega)]
  simp (disch := (simp only [Row.hits_iff, and_7F000, AddrRange.holds, and_true]; omega)) only [sidebandRows,
    List.find?_cons_of_neg, List.find?_cons_of_pos]

theorem decode_id_dbgRdw {t : Txn} (h : t.key.toNat / 0x1000 = 0x4D) :
    decode t = addrOperand "DBG_RDW" .dbgRdw t := by
  rw [decode_high (by omega), rowOf_sideband (by omega)]
  simp (disch := (simp only [Row.hits_iff, and_7F000, AddrRange.holds, and_true]; omega)) only [sidebandRows,
    List.find?_cons_of_neg, List.find?_cons_of_pos]

theorem decode_id_status {t : Txn} (h : t.key.toNat / 0x1000 = 0x4E) :
    decode t = bare .status t := by
  rw [decode_high (by omega), rowOf_sideband (by omega)]
  simp (disch := (simp only [Row.hits_iff, and_7F000, AddrRange.holds, and_true]; omega)) only [sidebandRows,
    List.find?_cons_of_neg, List.find?_cons_of_pos]

theorem decode_id_unused {t : Txn} (h : 0x4F ≤ t.key.toNat / 0x1000) :
    decode t = .error (.unusedSidebandId (t.key.toNat / 0x1000 % 64)) := by
  have := key_lt t.key
  rw [decode_high (by omega), rowOf_sideband (by omega)]
  simp (disch := (simp only [Row.hits_iff, and_7F000, AddrRange.holds, and_true]; omega)) only [sidebandRows,
    List.find?_cons_of_neg, List.find?_nil]

end Sys2Proof
end

