-- ==== Sys2Proof/Laws/Encode.lean ====
section
/-! SUPPORT. The laws of the encoder: each key as a number. -/

namespace Sys2Proof
open Machine

theorem bitNat_le (b : Bool) : bitNat b ≤ 1 := by cases b <;> decide

theorem memKey_toNat {op : Nat} (h : op < 2) (a : Word) : (memKey op a).toNat = op * 0x10000 + a.toNat := by
  have := a.isLt
  rw [memKey, BitVec.toNat_ofNat]
  omega

theorem cruKey_toNat {op : Nat} (h : op < 4) (m : Bool) (bit : CruBit) :
    (cruKey op m bit).toNat = op * 0x10000 + bitNat m * 0x1000 + bit.toNat := by
  have := bit.isLt
  have := bitNat_le m
  rw [cruKey, BitVec.toNat_ofNat]
  omega

theorem sidebandKey_toNat {id : Nat} (h : id < 64) : (sidebandKey id).toNat = 0x40000 + id * 0x1000 := by
  rw [sidebandKey, BitVec.toNat_ofNat]
  omega

theorem evenIn_iff {lo hi : Nat} {a : Word} :
    evenIn lo hi a = true ↔ a.toNat % 2 = 0 ∧ lo ≤ a.toNat ∧ a.toNat ≤ hi := by
  simp [evenIn]

theorem bitIn_iff {lo hi : Nat} {bit : CruBit} : bitIn lo hi bit = true ↔ lo ≤ bit.toNat ∧ bit.toNat ≤ hi := by
  simp [bitIn]

theorem portA1_iff {a : Word} : portA1 a = true ↔ a.toNat / 2 % 2 = 1 := by simp [portA1]

/-- A memory key names its own address. -/
theorem memKey_addr {op : Nat} (h : op < 2) (a : Word) (ws bs : List Nat) (S : Snapshot) :
    Txn.addr ⟨memKey op a, ws, bs, S⟩ = a := by
  apply BitVec.eq_of_toNat_eq
  have := a.isLt
  rw [Txn.addr_toNat]
  show (memKey op a).toNat % 0x10000 = _
  rw [memKey_toNat h]
  omega

/-- A CRU key names its own bit. -/
theorem cruKey_bit {op : Nat} (h : op < 4) (m : Bool) (bit : CruBit) (ws bs : List Nat) (S : Snapshot) :
    Txn.cruBit ⟨cruKey op m bit, ws, bs, S⟩ = bit := by
  apply BitVec.eq_of_toNat_eq
  have := bit.isLt
  have := bitNat_le m
  rw [Txn.cruBit_toNat]
  show (cruKey op m bit).toNat % 0x1000 = _
  rw [cruKey_toNat h]
  omega

/-- An even address is its own even boundary. -/
theorem evenAddr_of_even {a : Word} (h : a.toNat % 2 = 0) : evenAddr a = a :=
  BitVec.eq_of_toNat_eq (by rw [evenAddr_toNat]; omega)

end Sys2Proof
end

