-- ==== Sys2Proof/Laws/Exec.lean ====
section
/-! SUPPORT. The dispatcher and the step as equations: what exec is of each constructor, that exec always answers a next
state (60_exceptions.md R241), and what a step is. -/

namespace Sys2Proof.Machine

variable (s : State)

theorem exec_mrdRom (a : Word) : exec (.mrdRom a) s = execMrdRom a s := rfl
theorem exec_mrdLoram (a : Word) : exec (.mrdLoram a) s = execMrdLoram a s := rfl
theorem exec_mrdPeriph (a : Word) : exec (.mrdPeriph a) s = execMrdPeriph a s := rfl
theorem exec_mrdCart (a : Word) : exec (.mrdCart a) s = execMrdCart a s := rfl
theorem exec_mrdPad (a : Word) : exec (.mrdPad a) s = execMrdPad a s := rfl
theorem exec_mrdSound (a : Word) : exec (.mrdSound a) s = execMrdSound a s := rfl
theorem exec_mrdGap (a : Word) : exec (.mrdGap a) s = execMrdGap a s := rfl
theorem exec_mrdVdpData (a : Word) : exec (.mrdVdpData a) s = execMrdVdpData a s := rfl
theorem exec_mrdVdpStat (a : Word) : exec (.mrdVdpStat a) s = execMrdVdpStat a s := rfl
theorem exec_mrdVdpWp (a : Word) : exec (.mrdVdpWp a) s = execMrdVdpWp a s := rfl
theorem exec_mrdSpch (a : Word) : exec (.mrdSpch a) s = execMrdSpch a s := rfl
theorem exec_mrdSpchWp (a : Word) : exec (.mrdSpchWp a) s = execMrdSpchWp a s := rfl
theorem exec_mrdGrData (a : Word) : exec (.mrdGrData a) s = execMrdGrData a s := rfl
theorem exec_mrdGrAddr (a : Word) : exec (.mrdGrAddr a) s = execMrdGrAddr a s := rfl
theorem exec_mrdGrWp (a : Word) : exec (.mrdGrWp a) s = execMrdGrWp a s := rfl
theorem exec_mrdHiram (a : Word) : exec (.mrdHiram a) s = execMrdHiram a s := rfl
theorem exec_mwrRom (a d : Word) : exec (.mwrRom a d) s = execMwrRom a d s := rfl
theorem exec_mwrLoram (a d : Word) : exec (.mwrLoram a d) s = execMwrLoram a d s := rfl
theorem exec_mwrPeriph (a d : Word) : exec (.mwrPeriph a d) s = execMwrPeriph a d s := rfl
theorem exec_mwrCart (a d : Word) : exec (.mwrCart a d) s = execMwrCart a d s := rfl
theorem exec_mwrPad (a d : Word) : exec (.mwrPad a d) s = execMwrPad a d s := rfl
theorem exec_mwrSound (a d : Word) : exec (.mwrSound a d) s = execMwrSound a d s := rfl
theorem exec_mwrGap (a d : Word) : exec (.mwrGap a d) s = execMwrGap a d s := rfl
theorem exec_mwrVdpRp (a d : Word) : exec (.mwrVdpRp a d) s = execMwrVdpRp a d s := rfl
theorem exec_mwrVdpData (a d : Word) : exec (.mwrVdpData a d) s = execMwrVdpData a d s := rfl
theorem exec_mwrVdpAddr (a d : Word) : exec (.mwrVdpAddr a d) s = execMwrVdpAddr a d s := rfl
theorem exec_mwrSpchRp (a d : Word) : exec (.mwrSpchRp a d) s = execMwrSpchRp a d s := rfl
theorem exec_mwrSpch (a d : Word) : exec (.mwrSpch a d) s = execMwrSpch a d s := rfl
theorem exec_mwrGrRp (a d : Word) : exec (.mwrGrRp a d) s = execMwrGrRp a d s := rfl
theorem exec_mwrGrData (a d : Word) : exec (.mwrGrData a d) s = execMwrGrData a d s := rfl
theorem exec_mwrGrAddr (a d : Word) : exec (.mwrGrAddr a d) s = execMwrGrAddr a d s := rfl
theorem exec_mwrHiram (a d : Word) : exec (.mwrHiram a d) s = execMwrHiram a d s := rfl
theorem exec_crdMode : exec .crdMode s = execCrdMode s := rfl
theorem exec_crdTInt : exec .crdTInt s = execCrdTInt s := rfl
theorem exec_crdTClk (bit : CruBit) : exec (.crdTClk bit) s = execCrdTClk bit s := rfl
theorem exec_crdNVdp : exec .crdNVdp s = execCrdNVdp s := rfl
theorem exec_crdNKbd (bit : CruBit) : exec (.crdNKbd bit) s = execCrdNKbd bit s := rfl
theorem exec_crdTapeIn : exec .crdTapeIn s = execCrdTapeIn s := rfl
theorem exec_crdStored (bit : CruBit) : exec (.crdStored bit) s = execCrdStored bit s := rfl
theorem exec_cwrMode (v : Bool) : exec (.cwrMode v) s = execCwrMode v s := rfl
theorem exec_cwrTClk (bit : CruBit) (v : Bool) : exec (.cwrTClk bit v) s = execCwrTClk bit v s := rfl
theorem exec_cwrTB15 (v : Bool) : exec (.cwrTB15 v) s = execCwrTB15 v s := rfl
theorem exec_cwrTExit (bit : CruBit) (v : Bool) : exec (.cwrTExit bit v) s = execCwrTExit bit v s := rfl
theorem exec_cwrNAck (v : Bool) : exec (.cwrNAck v) s = execCwrNAck v s := rfl
theorem exec_cwrNMotor (v : Bool) : exec (.cwrNMotor v) s = execCwrNMotor v s := rfl
theorem exec_cwrNTapeOut (v : Bool) : exec (.cwrNTapeOut v) s = execCwrNTapeOut v s := rfl
theorem exec_cwrDsr (bit : CruBit) (v : Bool) : exec (.cwrDsr bit v) s = execCwrDsr bit v s := rfl
theorem exec_cwrNStore (bit : CruBit) (v : Bool) : exec (.cwrNStore bit v) s = execCwrNStore bit v s := rfl
theorem exec_tick (delta : Nat) : exec (.tick delta) s = execTick delta s := rfl
theorem exec_vdpInt (level : Bool) : exec (.vdpInt level) s = execVdpInt level s := rfl
theorem exec_reset (kind : ResetKind) : exec (.reset kind) s = execReset kind s := rfl
theorem exec_loadRam (a : Word) (bytes : List Byte) : exec (.loadRam a bytes) s = execLoadRam a bytes s := rfl
theorem exec_loadGrom (base : BitVec 4) (offset : Word) (bytes : List Byte) :
    exec (.loadGrom base offset bytes) s = execLoadGrom base offset bytes s := rfl
theorem exec_loadCart (bytes : List Byte) (inv ram6 ram7 paged : Bool) :
    exec (.loadCart bytes inv ram6 ram7 paged) s = execLoadCart bytes inv ram6 ram7 paged s := rfl
theorem exec_loadDsr (slot : BitVec 4) (bytes : List Byte) :
    exec (.loadDsr slot bytes) s = execLoadDsr slot bytes s := rfl
theorem exec_setRam32k (v : Bool) : exec (.setRam32k v) s = execSetRam32k v s := rfl
theorem exec_setAms (v : Bool) : exec (.setAms v) s = execSetAms v s := rfl
theorem exec_setGram (v : Bool) : exec (.setGram v) s = execSetGram v s := rfl
theorem exec_getState : exec .getState s = execGetState s := rfl
theorem exec_restoreState (snap : Snapshot) : exec (.restoreState snap) s = execRestoreState snap s := rfl
theorem exec_dbgRdb (a : Word) : exec (.dbgRdb a) s = execDbgRdb a s := rfl
theorem exec_dbgRdw (a : Word) : exec (.dbgRdw a) s = execDbgRdw a s := rfl
theorem exec_status : exec .status s = execStatus s := rfl

/-- Every instruction answers a next state: no meaning faults or refuses. -/
theorem exec_completes (i : Instr) (s : State) : ∃ t, exec i s = .next t := by
  cases i with
  | crdTClk bit =>
    rw [exec_crdTClk]
    unfold execCrdTClk
    cases s.params.timerRead <;> exact ⟨_, rfl⟩
  | crdStored bit =>
    rw [exec_crdStored]
    unfold execCrdStored
    cases s.params.unlistedCruRead <;> exact ⟨_, rfl⟩
  | loadRam a bytes =>
    rw [exec_loadRam]
    unfold execLoadRam
    split_ifs <;> exact ⟨_, rfl⟩
  | loadGrom base offset bytes =>
    rw [exec_loadGrom]
    unfold execLoadGrom
    split_ifs <;> exact ⟨_, rfl⟩
  | loadCart bytes inv ram6 ram7 paged =>
    rw [exec_loadCart]
    unfold execLoadCart
    split_ifs <;> exact ⟨_, rfl⟩
  | loadDsr slot bytes =>
    rw [exec_loadDsr]
    unfold execLoadDsr
    split_ifs <;> exact ⟨_, rfl⟩
  | restoreState snap =>
    rw [exec_restoreState]
    unfold execRestoreState
    split_ifs <;> exact ⟨_, rfl⟩
  | _ => exact ⟨_, rfl⟩

/-! ### RESTORE_STATE -/

/-- What a well-formed snapshot installs as ROM is the block's own (10_state.md R23). -/
theorem snapshotBlock_rom {p : Params} {rom : Memory} {S : Snapshot} (h : snapshotWellFormed p rom S = true) :
    (snapshotBlock S).decoder.rom = rom := by
  have hr : S.rom = some ⟨0x2000, rom⟩ := by
    simp only [snapshotWellFormed, decoderWellFormed, Bool.and_eq_true, decide_eq_true_eq] at h
    tauto
  show (S.rom.getD Image.empty).cells = rom
  rw [hr]
  rfl

/-- What RESTORE_STATE can do: install a well-formed snapshot over the same ROM, or raise E_SNAPSHOT. -/
theorem execRestoreState_cases {S : Snapshot} {s t : State} (h : execRestoreState S s = .next t) :
    (snapshotWellFormed s.params s.decoder.rom S = true ∧ t = (s.setBlock (snapshotBlock S)).untimed .ok [] ∧
        t.decoder.rom = s.decoder.rom) ∨
      (snapshotWellFormed s.params s.decoder.rom S = false ∧ t = s.raise .eSnapshot) := by
  unfold execRestoreState at h
  split_ifs at h with hw <;> cases h
  · exact .inl ⟨hw, rfl, snapshotBlock_rom hw⟩
  · exact .inr ⟨by simpa using hw, rfl⟩

/-! ### The step -/

theorem step_idle {s : State} (h : s.pending = []) : step s = .next s := by
  unfold step
  rw [h]

theorem step_pending {s : State} {t : Txn} {rest : List Txn} (h : s.pending = t :: rest) :
    step s = perform (issue t s.cru.tmode) { s with pending := rest } := by
  unfold step
  rw [h]

theorem perform_ok {t : Txn} {s : State} {i : Instr} (h : decode t = .ok i) : perform t s = exec i s := by
  rw [perform, h]

theorem perform_error {t : Txn} {s : State} {e : DecodeError} (h : decode t = .error e) :
    perform t s = .refused (refusalOf e) := by
  rw [perform, h]

/-- A key that is no CRU key is issued as it stands. -/
theorem issue_of_not_cru {t : Txn} (h : t.key.toNat / 0x20000 ≠ 1) (m : Bool) : issue t m = t := by
  have h' : (t.key.toNat / 0x20000 == 1) = false := by simpa using h
  unfold issue keyInMode Key.isCru
  simp only [h', Bool.false_eq_true, if_false]

/-- A CRU key is issued with TMODE in K[12]. -/
theorem issue_key_of_cru {t : Txn} (h : t.key.toNat / 0x20000 = 1) (m : Bool) :
    (issue t m).key.toNat = t.key.toNat / 0x2000 * 0x2000 + bitNat m * 0x1000 + t.key.toNat % 0x1000 := by
  have h' : (t.key.toNat / 0x20000 == 1) = true := by simpa using h
  have hm : bitNat m ≤ 1 := by cases m <;> decide
  unfold issue keyInMode Key.isCru
  simp only [h', if_true, BitVec.toNat_ofNat]
  omega

end Sys2Proof.Machine
end

