-- ==== Sys2Proof/Laws/Operands.lean ====
section
/-! SUPPORT. The laws of the operand forms: lanes, the fields the rules take from an address, the wait-state charge, and
the banks of sixteen. -/

namespace Sys2Proof.Machine

/-! ### Bytes and words -/

theorem getLsbD_eq {n : Nat} (v : BitVec n) (i : Nat) : v.getLsbD i = decide (v.toNat / 2 ^ i % 2 = 1) := by
  simp [BitVec.getLsbD, Nat.testBit_eq_decide_div_mod_eq]

theorem hi8_toNat (w : Word) : (hi8 w).toNat = w.toNat / 0x100 := by
  have := w.isLt
  simp [hi8, Nat.shiftRight_eq_div_pow]
  omega

theorem lo8_toNat (w : Word) : (lo8 w).toNat = w.toNat % 0x100 := by
  simp [lo8]

theorem be16_toNat (h l : Byte) : (be16 h l).toNat = h.toNat * 0x100 + l.toNat := by
  have := l.isLt
  rw [be16, BitVec.toNat_append, Nat.mul_comm, show (0x100 : Nat) = 2 ^ 8 from rfl, Nat.two_pow_add_eq_or_of_lt this,
    Nat.shiftLeft_eq, Nat.mul_comm]

@[simp] theorem hi8_be16 (h l : Byte) : hi8 (be16 h l) = h := by
  apply BitVec.eq_of_toNat_eq
  have := l.isLt
  rw [hi8_toNat, be16_toNat]
  omega

@[simp] theorem lo8_be16 (h l : Byte) : lo8 (be16 h l) = l := by
  apply BitVec.eq_of_toNat_eq
  have := l.isLt
  rw [lo8_toNat, be16_toNat]
  omega

@[simp] theorem be16_hi8_lo8 (w : Word) : be16 (hi8 w) (lo8 w) = w := by
  apply BitVec.eq_of_toNat_eq
  rw [be16_toNat, hi8_toNat, lo8_toNat]
  omega

@[simp] theorem swap16_swap16 (w : Word) : swap16 (swap16 w) = w := by
  simp [swap16]

/-! ### Addresses -/

theorem evenAddr_even (a : Word) : (evenAddr a).toNat % 2 = 0 := by
  rw [evenAddr_toNat]
  omega

@[simp] theorem evenAddr_evenAddr (a : Word) : evenAddr (evenAddr a) = evenAddr a :=
  BitVec.eq_of_toNat_eq (by rw [evenAddr_toNat, evenAddr_toNat]; omega)

/-- The second byte of a word access never wraps. -/
theorem succ_toNat {a : Word} (h : a.toNat % 2 = 0) : (a + 1).toNat = a.toNat + 1 := by
  have := a.isLt
  rw [BitVec.toNat_add]
  simp
  omega

/-- The scratchpad cell of an address (20_memory.md R69). -/
theorem padAddr_toNat {a : Word} (h1 : 0x8000 ≤ a.toNat) (h2 : a.toNat < 0x8400) :
    (padAddr a).toNat = 0x8300 + a.toNat % 0x100 / 2 * 2 := by
  unfold padAddr
  rw [BitVec.toNat_or, evenAddr_toNat]
  show a.toNat / 2 * 2 ||| 0x300 = _
  have e : a.toNat / 2 * 2 = 2 ^ 10 * 32 + (2 ^ 8 * (a.toNat / 0x100 % 4) + a.toNat % 0x100 / 2 * 2) := by omega
  have l1 : a.toNat % 0x100 / 2 * 2 < 2 ^ 8 := by omega
  have l2 : 2 ^ 8 * (a.toNat / 0x100 % 4) + a.toNat % 0x100 / 2 * 2 < 2 ^ 10 := by omega
  rw [e, Nat.two_pow_add_eq_or_of_lt l2, Nat.or_assoc, Nat.two_pow_add_eq_or_of_lt l1, Nat.or_comm (2 ^ 8 * _),
    Nat.or_assoc]
  have hx : 2 ^ 8 * (a.toNat / 0x100 % 4) ||| 0x300 = 2 ^ 8 * 3 := by
    have : a.toNat / 0x100 % 4 < 4 := by omega
    interval_cases (a.toNat / 0x100 % 4) <;> rfl
  rw [hx, Nat.or_comm (a.toNat % 0x100 / 2 * 2), ← Nat.two_pow_add_eq_or_of_lt l1,
    ← Nat.two_pow_add_eq_or_of_lt (by omega)]
  omega

theorem amsWindow_toNat (a : Word) : (amsWindow a).toNat = a.toNat / 0x1000 := by
  have := a.isLt
  simp [amsWindow, Nat.shiftRight_eq_div_pow]
  omega

theorem amsRegIndex_toNat (a : Word) : (amsRegIndex (evenAddr a)).toNat = a.toNat / 2 % 16 := by
  simp [amsRegIndex, evenAddr_toNat, Nat.shiftRight_eq_div_pow]

theorem gromBaseField_toNat (a : Word) : (gromBaseField (evenAddr a)).toNat = a.toNat / 4 % 16 := by
  simp [gromBaseField, evenAddr_toNat, Nat.shiftRight_eq_div_pow]
  omega

theorem dsrAddr_toNat (bit : CruBit) : (dsrAddr bit).toNat = 2 * bit.toNat := by
  have := bit.isLt
  simp [dsrAddr]
  omega

theorem dsrSlot_toNat (a : Word) : (dsrSlot a).toNat = a.toNat / 0x100 % 16 := by
  simp [dsrSlot, Nat.shiftRight_eq_div_pow]

theorem dsrSubField_toNat (a : Word) : (dsrSubField a).toNat = a.toNat / 2 % 8 := by
  simp [dsrSubField, Nat.shiftRight_eq_div_pow]

theorem cartHalf_eq {a : Word} (h1 : 0x6000 ≤ a.toNat) (h2 : a.toNat < 0x8000) :
    cartHalf a = decide (0x7000 ≤ a.toNat) := by
  unfold cartHalf
  rw [getLsbD_eq]
  congr 1
  simp
  omega

/-! ### The wait-state charge (40_bus_memory.md R110) -/

theorem region_grom (a : Word) : (region (evenAddr a) == Region.grom) = decide (0x9800 ≤ a.toNat ∧ a.toNat < 0xA000) := by
  unfold region
  rw [evenAddr_toNat]
  split_ifs <;>
    first
      | (rw [decide_eq_false (by omega)]; rfl)
      | (rw [decide_eq_true (by omega)]; rfl)

@[simp] theorem waitCycles_read (p : Params) (a : Word) : waitCycles p false a = p.waitDefault := rfl

theorem waitCycles_write (p : Params) (a : Word) :
    waitCycles p true a = if 0x9800 ≤ a.toNat ∧ a.toNat < 0xA000 then p.waitGromWrite else p.waitDefault := by
  unfold waitCycles
  rw [region_grom]
  simp

theorem timedWrite_default (s : State) {a : Word} (h : a.toNat < 0x9800 ∨ 0xA000 ≤ a.toNat) :
    s.timedWrite a = { s with reply := ⟨.nothing, s.params.waitDefault, [], none⟩ } := by
  unfold State.timedWrite State.timed
  rw [waitCycles_write, if_neg (by omega)]

theorem timedWrite_grom (s : State) {a : Word} (h1 : 0x9800 ≤ a.toNat) (h2 : a.toNat < 0xA000) :
    s.timedWrite a = { s with reply := ⟨.nothing, s.params.waitGromWrite, [], none⟩ } := by
  unfold State.timedWrite State.timed
  rw [waitCycles_write, if_pos ⟨h1, h2⟩]

/-! ### Banks of sixteen and bits -/

theorem at16_put16 {α : Type} (v : Vector α 16) (i j : BitVec 4) (x : α) :
    at16 (put16 v i x) j = if j = i then x else at16 v j := by
  unfold at16 put16
  rw [Vector.getElem_set]
  split_ifs with h1 h2 h2
  · rfl
  · exact absurd (BitVec.eq_of_toNat_eq h1.symm) h2
  · exact absurd (congrArg BitVec.toNat h2.symm) h1
  · rfl

/-- Banks of sixteen that agree at every index are the same data. -/
theorem ext16 {α : Type} {v w : Vector α 16} (h : ∀ b : BitVec 4, at16 v b = at16 w b) : v = w := by
  apply Vector.ext
  intro i hi
  have := h (BitVec.ofNat 4 i)
  have e : (BitVec.ofNat 4 i).toNat = i := by simp; omega
  unfold at16 at this
  simpa only [e] using this

theorem putBit_getLsbD {n : Nat} (v : BitVec n) {i : Nat} (b : Bool) {j : Nat} (hj : j < n) :
    (putBit v i b).getLsbD j = if j = i then b else v.getLsbD j := by
  unfold putBit
  cases b
  · simp only [Bool.false_eq_true, if_false, BitVec.getLsbD_and, BitVec.getLsbD_not, BitVec.getLsbD_ofNat, hj,
      decide_true, Bool.true_and, Nat.testBit_two_pow]
    by_cases h : j = i
    · simp [h]
    · simp [h, Ne.symm h]
  · simp only [if_true, BitVec.getLsbD_or, BitVec.getLsbD_ofNat, hj, decide_true, Bool.true_and, Nat.testBit_two_pow]
    by_cases h : j = i
    · simp [h]
    · simp [h, Ne.symm h]

end Sys2Proof.Machine
end

