-- ==== Sys2Proof/Laws/State.lean ====
section
/-! SUPPORT. What each update of the state leaves in each field: one lemma per update and field, by rfl. -/

namespace Sys2Proof.Machine

variable (s : State)

/-! ### State.timed -/

@[simp] theorem State.timed_toBlock (w : Bool) (a : Word) (v : Value) (c : List DeviceCall) : (s.timed w a v c).toBlock = s.toBlock := rfl
@[simp] theorem State.timed_decoder (w : Bool) (a : Word) (v : Value) (c : List DeviceCall) : (s.timed w a v c).decoder = s.decoder := rfl
@[simp] theorem State.timed_bsc (w : Bool) (a : Word) (v : Value) (c : List DeviceCall) : (s.timed w a v c).bsc = s.bsc := rfl
@[simp] theorem State.timed_ams (w : Bool) (a : Word) (v : Value) (c : List DeviceCall) : (s.timed w a v c).ams = s.ams := rfl
@[simp] theorem State.timed_cru (w : Bool) (a : Word) (v : Value) (c : List DeviceCall) : (s.timed w a v c).cru = s.cru := rfl
@[simp] theorem State.timed_gsq (w : Bool) (a : Word) (v : Value) (c : List DeviceCall) : (s.timed w a v c).gsq = s.gsq := rfl
@[simp] theorem State.timed_params (w : Bool) (a : Word) (v : Value) (c : List DeviceCall) : (s.timed w a v c).params = s.params := rfl
@[simp] theorem State.timed_pending (w : Bool) (a : Word) (v : Value) (c : List DeviceCall) : (s.timed w a v c).pending = s.pending := rfl
@[simp] theorem State.timed_reply (w : Bool) (a : Word) (v : Value) (c : List DeviceCall) : (s.timed w a v c).reply = ⟨v, waitCycles s.params w a, c, .none⟩ := rfl
@[simp] theorem State.timed_draws (w : Bool) (a : Word) (v : Value) (c : List DeviceCall) : (s.timed w a v c).draws = s.draws := rfl

/-! ### State.timedRead -/

@[simp] theorem State.timedRead_toBlock (a d : Word) : (s.timedRead a d).toBlock = s.toBlock := rfl
@[simp] theorem State.timedRead_decoder (a d : Word) : (s.timedRead a d).decoder = s.decoder := rfl
@[simp] theorem State.timedRead_bsc (a d : Word) : (s.timedRead a d).bsc = s.bsc := rfl
@[simp] theorem State.timedRead_ams (a d : Word) : (s.timedRead a d).ams = s.ams := rfl
@[simp] theorem State.timedRead_cru (a d : Word) : (s.timedRead a d).cru = s.cru := rfl
@[simp] theorem State.timedRead_gsq (a d : Word) : (s.timedRead a d).gsq = s.gsq := rfl
@[simp] theorem State.timedRead_params (a d : Word) : (s.timedRead a d).params = s.params := rfl
@[simp] theorem State.timedRead_pending (a d : Word) : (s.timedRead a d).pending = s.pending := rfl
@[simp] theorem State.timedRead_reply (a d : Word) : (s.timedRead a d).reply = ⟨.word d, waitCycles s.params false a, [], .none⟩ := rfl
@[simp] theorem State.timedRead_draws (a d : Word) : (s.timedRead a d).draws = s.draws := rfl

/-! ### State.timedWrite -/

@[simp] theorem State.timedWrite_toBlock (a : Word) : (s.timedWrite a).toBlock = s.toBlock := rfl
@[simp] theorem State.timedWrite_decoder (a : Word) : (s.timedWrite a).decoder = s.decoder := rfl
@[simp] theorem State.timedWrite_bsc (a : Word) : (s.timedWrite a).bsc = s.bsc := rfl
@[simp] theorem State.timedWrite_ams (a : Word) : (s.timedWrite a).ams = s.ams := rfl
@[simp] theorem State.timedWrite_cru (a : Word) : (s.timedWrite a).cru = s.cru := rfl
@[simp] theorem State.timedWrite_gsq (a : Word) : (s.timedWrite a).gsq = s.gsq := rfl
@[simp] theorem State.timedWrite_params (a : Word) : (s.timedWrite a).params = s.params := rfl
@[simp] theorem State.timedWrite_pending (a : Word) : (s.timedWrite a).pending = s.pending := rfl
@[simp] theorem State.timedWrite_reply (a : Word) : (s.timedWrite a).reply = ⟨.nothing, waitCycles s.params true a, [], .none⟩ := rfl
@[simp] theorem State.timedWrite_draws (a : Word) : (s.timedWrite a).draws = s.draws := rfl

/-! ### State.untimed -/

@[simp] theorem State.untimed_toBlock (v : Value) (c : List DeviceCall) : (s.untimed v c).toBlock = s.toBlock := rfl
@[simp] theorem State.untimed_decoder (v : Value) (c : List DeviceCall) : (s.untimed v c).decoder = s.decoder := rfl
@[simp] theorem State.untimed_bsc (v : Value) (c : List DeviceCall) : (s.untimed v c).bsc = s.bsc := rfl
@[simp] theorem State.untimed_ams (v : Value) (c : List DeviceCall) : (s.untimed v c).ams = s.ams := rfl
@[simp] theorem State.untimed_cru (v : Value) (c : List DeviceCall) : (s.untimed v c).cru = s.cru := rfl
@[simp] theorem State.untimed_gsq (v : Value) (c : List DeviceCall) : (s.untimed v c).gsq = s.gsq := rfl
@[simp] theorem State.untimed_params (v : Value) (c : List DeviceCall) : (s.untimed v c).params = s.params := rfl
@[simp] theorem State.untimed_pending (v : Value) (c : List DeviceCall) : (s.untimed v c).pending = s.pending := rfl
@[simp] theorem State.untimed_reply (v : Value) (c : List DeviceCall) : (s.untimed v c).reply = ⟨v, 0, c, .none⟩ := rfl
@[simp] theorem State.untimed_draws (v : Value) (c : List DeviceCall) : (s.untimed v c).draws = s.draws := rfl

/-! ### State.raise -/

@[simp] theorem State.raise_toBlock (e : HostError) : (s.raise e).toBlock = s.toBlock := rfl
@[simp] theorem State.raise_decoder (e : HostError) : (s.raise e).decoder = s.decoder := rfl
@[simp] theorem State.raise_bsc (e : HostError) : (s.raise e).bsc = s.bsc := rfl
@[simp] theorem State.raise_ams (e : HostError) : (s.raise e).ams = s.ams := rfl
@[simp] theorem State.raise_cru (e : HostError) : (s.raise e).cru = s.cru := rfl
@[simp] theorem State.raise_gsq (e : HostError) : (s.raise e).gsq = s.gsq := rfl
@[simp] theorem State.raise_params (e : HostError) : (s.raise e).params = s.params := rfl
@[simp] theorem State.raise_pending (e : HostError) : (s.raise e).pending = s.pending := rfl
@[simp] theorem State.raise_reply (e : HostError) : (s.raise e).reply = ⟨.nothing, 0, [], some e⟩ := rfl
@[simp] theorem State.raise_draws (e : HostError) : (s.raise e).draws = s.draws := rfl

/-! ### State.draw -/

@[simp] theorem State.draw_toBlock : (s.draw).toBlock = s.toBlock := rfl
@[simp] theorem State.draw_decoder : (s.draw).decoder = s.decoder := rfl
@[simp] theorem State.draw_bsc : (s.draw).bsc = s.bsc := rfl
@[simp] theorem State.draw_ams : (s.draw).ams = s.ams := rfl
@[simp] theorem State.draw_cru : (s.draw).cru = s.cru := rfl
@[simp] theorem State.draw_gsq : (s.draw).gsq = s.gsq := rfl
@[simp] theorem State.draw_params : (s.draw).params = s.params := rfl
@[simp] theorem State.draw_pending : (s.draw).pending = s.pending := rfl
@[simp] theorem State.draw_reply : (s.draw).reply = s.reply := rfl
@[simp] theorem State.draw_draws : (s.draw).draws = s.draws + 1 := rfl

/-! ### State.setDecoder -/

@[simp] theorem State.setDecoder_toBlock (u : Decoder) : (s.setDecoder u).toBlock = (({ s.toBlock with decoder := u } : Block)) := rfl
@[simp] theorem State.setDecoder_decoder (u : Decoder) : (s.setDecoder u).decoder = u := rfl
@[simp] theorem State.setDecoder_bsc (u : Decoder) : (s.setDecoder u).bsc = s.bsc := rfl
@[simp] theorem State.setDecoder_ams (u : Decoder) : (s.setDecoder u).ams = s.ams := rfl
@[simp] theorem State.setDecoder_cru (u : Decoder) : (s.setDecoder u).cru = s.cru := rfl
@[simp] theorem State.setDecoder_gsq (u : Decoder) : (s.setDecoder u).gsq = s.gsq := rfl
@[simp] theorem State.setDecoder_params (u : Decoder) : (s.setDecoder u).params = s.params := rfl
@[simp] theorem State.setDecoder_pending (u : Decoder) : (s.setDecoder u).pending = s.pending := rfl
@[simp] theorem State.setDecoder_reply (u : Decoder) : (s.setDecoder u).reply = s.reply := rfl
@[simp] theorem State.setDecoder_draws (u : Decoder) : (s.setDecoder u).draws = s.draws := rfl

/-! ### State.setBsc -/

@[simp] theorem State.setBsc_toBlock (u : BankSwitch) : (s.setBsc u).toBlock = (({ s.toBlock with bsc := u } : Block)) := rfl
@[simp] theorem State.setBsc_decoder (u : BankSwitch) : (s.setBsc u).decoder = s.decoder := rfl
@[simp] theorem State.setBsc_bsc (u : BankSwitch) : (s.setBsc u).bsc = u := rfl
@[simp] theorem State.setBsc_ams (u : BankSwitch) : (s.setBsc u).ams = s.ams := rfl
@[simp] theorem State.setBsc_cru (u : BankSwitch) : (s.setBsc u).cru = s.cru := rfl
@[simp] theorem State.setBsc_gsq (u : BankSwitch) : (s.setBsc u).gsq = s.gsq := rfl
@[simp] theorem State.setBsc_params (u : BankSwitch) : (s.setBsc u).params = s.params := rfl
@[simp] theorem State.setBsc_pending (u : BankSwitch) : (s.setBsc u).pending = s.pending := rfl
@[simp] theorem State.setBsc_reply (u : BankSwitch) : (s.setBsc u).reply = s.reply := rfl
@[simp] theorem State.setBsc_draws (u : BankSwitch) : (s.setBsc u).draws = s.draws := rfl

/-! ### State.setAms -/

@[simp] theorem State.setAms_toBlock (u : PageMapper) : (s.setAms u).toBlock = (({ s.toBlock with ams := u } : Block)) := rfl
@[simp] theorem State.setAms_decoder (u : PageMapper) : (s.setAms u).decoder = s.decoder := rfl
@[simp] theorem State.setAms_bsc (u : PageMapper) : (s.setAms u).bsc = s.bsc := rfl
@[simp] theorem State.setAms_ams (u : PageMapper) : (s.setAms u).ams = u := rfl
@[simp] theorem State.setAms_cru (u : PageMapper) : (s.setAms u).cru = s.cru := rfl
@[simp] theorem State.setAms_gsq (u : PageMapper) : (s.setAms u).gsq = s.gsq := rfl
@[simp] theorem State.setAms_params (u : PageMapper) : (s.setAms u).params = s.params := rfl
@[simp] theorem State.setAms_pending (u : PageMapper) : (s.setAms u).pending = s.pending := rfl
@[simp] theorem State.setAms_reply (u : PageMapper) : (s.setAms u).reply = s.reply := rfl
@[simp] theorem State.setAms_draws (u : PageMapper) : (s.setAms u).draws = s.draws := rfl

/-! ### State.setCru -/

@[simp] theorem State.setCru_toBlock (u : CruUnit) : (s.setCru u).toBlock = (({ s.toBlock with cru := u } : Block)) := rfl
@[simp] theorem State.setCru_decoder (u : CruUnit) : (s.setCru u).decoder = s.decoder := rfl
@[simp] theorem State.setCru_bsc (u : CruUnit) : (s.setCru u).bsc = s.bsc := rfl
@[simp] theorem State.setCru_ams (u : CruUnit) : (s.setCru u).ams = s.ams := rfl
@[simp] theorem State.setCru_cru (u : CruUnit) : (s.setCru u).cru = u := rfl
@[simp] theorem State.setCru_gsq (u : CruUnit) : (s.setCru u).gsq = s.gsq := rfl
@[simp] theorem State.setCru_params (u : CruUnit) : (s.setCru u).params = s.params := rfl
@[simp] theorem State.setCru_pending (u : CruUnit) : (s.setCru u).pending = s.pending := rfl
@[simp] theorem State.setCru_reply (u : CruUnit) : (s.setCru u).reply = s.reply := rfl
@[simp] theorem State.setCru_draws (u : CruUnit) : (s.setCru u).draws = s.draws := rfl

/-! ### State.setGsq -/

@[simp] theorem State.setGsq_toBlock (u : GromSeq) : (s.setGsq u).toBlock = (({ s.toBlock with gsq := u } : Block)) := rfl
@[simp] theorem State.setGsq_decoder (u : GromSeq) : (s.setGsq u).decoder = s.decoder := rfl
@[simp] theorem State.setGsq_bsc (u : GromSeq) : (s.setGsq u).bsc = s.bsc := rfl
@[simp] theorem State.setGsq_ams (u : GromSeq) : (s.setGsq u).ams = s.ams := rfl
@[simp] theorem State.setGsq_cru (u : GromSeq) : (s.setGsq u).cru = s.cru := rfl
@[simp] theorem State.setGsq_gsq (u : GromSeq) : (s.setGsq u).gsq = u := rfl
@[simp] theorem State.setGsq_params (u : GromSeq) : (s.setGsq u).params = s.params := rfl
@[simp] theorem State.setGsq_pending (u : GromSeq) : (s.setGsq u).pending = s.pending := rfl
@[simp] theorem State.setGsq_reply (u : GromSeq) : (s.setGsq u).reply = s.reply := rfl
@[simp] theorem State.setGsq_draws (u : GromSeq) : (s.setGsq u).draws = s.draws := rfl

/-! ### State.setBlock -/

@[simp] theorem State.setBlock_toBlock (b : Block) : (s.setBlock b).toBlock = b := rfl
@[simp] theorem State.setBlock_decoder (b : Block) : (s.setBlock b).decoder = b.decoder := rfl
@[simp] theorem State.setBlock_bsc (b : Block) : (s.setBlock b).bsc = b.bsc := rfl
@[simp] theorem State.setBlock_ams (b : Block) : (s.setBlock b).ams = b.ams := rfl
@[simp] theorem State.setBlock_cru (b : Block) : (s.setBlock b).cru = b.cru := rfl
@[simp] theorem State.setBlock_gsq (b : Block) : (s.setBlock b).gsq = b.gsq := rfl
@[simp] theorem State.setBlock_params (b : Block) : (s.setBlock b).params = s.params := rfl
@[simp] theorem State.setBlock_pending (b : Block) : (s.setBlock b).pending = s.pending := rfl
@[simp] theorem State.setBlock_reply (b : Block) : (s.setBlock b).reply = s.reply := rfl
@[simp] theorem State.setBlock_draws (b : Block) : (s.setBlock b).draws = s.draws := rfl

end Sys2Proof.Machine
end

