-- ==== Sys2Proof/Laws/Stores.lean ====
section
/-! SUPPORT. The laws of the stores: a read after a write, the canonical form kept by every operation, the bound kept
by every operation, and the same for byte lists and CRU lines. -/

namespace Sys2Proof.Machine

/-! ### Reads -/

@[simp] theorem Memory.read_nil (i : Nat) : Memory.read [] i = 0 := rfl

theorem Memory.read_cons (c : Host.Cell) (m : Memory) (i : Nat) :
    Memory.read (c :: m) i = if c.1 = i then c.2 else Memory.read m i := rfl

theorem Memory.read_eq_zero_of_not_mem {m : Memory} {i : Nat} (h : ∀ c ∈ m, c.1 ≠ i) : Memory.read m i = 0 := by
  induction m with
  | nil => rfl
  | cons c m ih =>
    rw [Memory.read_cons, if_neg (h c (by simp))]
    exact ih fun d hd => h d (by simp [hd])

theorem Memory.read_erase (m : Memory) (i j : Nat) :
    Memory.read (Memory.erase m i) j = if j = i then 0 else Memory.read m j := by
  induction m with
  | nil => simp [Memory.erase]
  | cons c m ih =>
    simp only [Memory.erase] at ih ⊢
    by_cases hc : c.1 = i
    · subst hc
      simp only [List.filter, bne_self_eq_false, ih, Memory.read_cons]
      split_ifs <;> simp_all
    · have hb : (c.1 != i) = true := by simpa using hc
      simp only [List.filter, hb, Memory.read_cons, ih]
      split_ifs <;> simp_all

theorem Memory.read_insert {m : Memory} {i : Nat} (h : ∀ c ∈ m, c.1 ≠ i) (b : Byte) (j : Nat) :
    Memory.read (Memory.insert m i b) j = if j = i then b else Memory.read m j := by
  induction m with
  | nil =>
    simp only [Memory.insert, Memory.read_cons, Memory.read_nil, eq_comm]
  | cons c m ih =>
    have hc : c.1 ≠ i := h c (by simp)
    have ih := ih fun d hd => h d (by simp [hd])
    simp only [Memory.insert]
    split_ifs with h1 h2
    · simp [Memory.read_cons, h2]
    · simp only [Memory.read_cons, if_neg (Ne.symm h2)]
    · simp only [Memory.read_cons, ih]
      split_ifs <;> simp_all
    · simp only [Memory.read_cons, ih]
      split_ifs <;> simp_all

theorem Memory.erase_ne (m : Memory) (i : Nat) : ∀ c ∈ Memory.erase m i, c.1 ≠ i := by
  intro c hc
  simpa using (List.mem_filter.1 hc).2

/-- Reading after a write: the byte written at its index, the old byte elsewhere. It holds of every memory. -/
theorem Memory.read_write (m : Memory) (i : Nat) (b : Byte) (j : Nat) :
    Memory.read (Memory.write m i b) j = if j = i then b else Memory.read m j := by
  unfold Memory.write
  split_ifs with hb hj hj
  · simp [Memory.read_erase, hj, hb]
  · simp [Memory.read_erase, hj]
  · rw [Memory.read_insert (Memory.erase_ne m i), if_pos hj]
  · rw [Memory.read_insert (Memory.erase_ne m i), if_neg hj, Memory.read_erase, if_neg hj]

@[simp] theorem Memory.read_write_same (m : Memory) (i : Nat) (b : Byte) :
    Memory.read (Memory.write m i b) i = b := by simp [Memory.read_write]

theorem Memory.read_write_other (m : Memory) {i j : Nat} (b : Byte) (h : j ≠ i) :
    Memory.read (Memory.write m i b) j = Memory.read m j := by simp [Memory.read_write, h]

/-- Reading a byte after a word is stored (20_memory.md R63). -/
theorem Memory.read_writeWord (m : Memory) (i : Nat) (d : Word) (j : Nat) :
    Memory.read (Memory.writeWord m i d) j =
      if j = i + 1 then lo8 d else if j = i then hi8 d else Memory.read m j := by
  simp only [Memory.writeWord, Memory.read_write]

theorem Memory.read_below (m : Memory) (n i : Nat) :
    Memory.read (Memory.below m n) i = if i < n then Memory.read m i else 0 := by
  induction m with
  | nil => simp [Memory.below]
  | cons c m ih =>
    simp only [Memory.below] at ih ⊢
    by_cases hc : c.1 < n
    · simp only [List.filter, hc, decide_true, Memory.read_cons, ih]
      split_ifs <;> first | rfl | omega
    · simp only [List.filter, hc, decide_false, Memory.read_cons, ih]
      split_ifs <;> first | rfl | omega

theorem Memory.read_ofBytes (bs : List Byte) (k i : Nat) :
    Memory.read (Memory.ofBytes k bs) i = if k ≤ i then bs.getD (i - k) 0 else 0 := by
  induction bs generalizing k with
  | nil => simp [Memory.ofBytes]
  | cons b bs ih =>
    have key : Memory.read (Memory.ofBytes k (b :: bs)) i =
        if i = k then b else Memory.read (Memory.ofBytes (k + 1) bs) i := by
      simp only [Memory.ofBytes]
      split_ifs with hb hi hi
      · rw [ih, if_neg (by omega), hb]
      · rfl
      · simp [Memory.read_cons, hi]
      · rw [Memory.read_cons, if_neg (Ne.symm hi)]
    rw [key, ih]
    split_ifs with h1 h2 h3
    · simp [h1]
    · omega
    · obtain ⟨d, rfl⟩ := Nat.exists_eq_add_of_lt (show k < i by omega)
      simp [show k + d + 1 - k = d + 1 by omega, show k + d + 1 - (k + 1) = d by omega]
    · omega
    · omega
    · rfl

/-! ### The canonical form and the bounds -/

theorem Memory.erase_wf {m : Memory} (h : Memory.wf m) (i : Nat) : Memory.wf (Memory.erase m i) :=
  ⟨h.1.filter _, fun c hc => h.2 c (List.mem_of_mem_filter hc)⟩

theorem Memory.mem_insert {m : Memory} {i : Nat} {b : Byte} {c : Host.Cell} :
    c ∈ Memory.insert m i b ↔ c = (i, b) ∨ c ∈ m := by
  induction m with
  | nil => simp [Memory.insert]
  | cons d m ih =>
    simp only [Memory.insert]
    split_ifs
    · simp
    · simp only [List.mem_cons, ih]
      tauto

theorem Memory.insert_wf {m : Memory} (h : Memory.wf m) {i : Nat} (hi : ∀ c ∈ m, c.1 ≠ i) {b : Byte} (hb : b ≠ 0) :
    Memory.wf (Memory.insert m i b) := by
  refine ⟨?_, fun c hc => ?_⟩
  · have hp := h.1
    clear h
    induction m with
    | nil => simp [Memory.insert]
    | cons c m ih =>
      rw [List.pairwise_cons] at hp
      have hci : c.1 ≠ i := hi c (by simp)
      simp only [Memory.insert]
      split_ifs with hlt
      · refine List.pairwise_cons.2 ⟨fun d hd => ?_, List.pairwise_cons.2 hp⟩
        rcases List.mem_cons.1 hd with rfl | hd
        · exact hlt
        · exact lt_trans hlt (hp.1 d hd)
      · refine List.pairwise_cons.2 ⟨fun d hd => ?_, ih (fun d hd => hi d (by simp [hd])) hp.2⟩
        rcases Memory.mem_insert.1 hd with rfl | hd
        · show c.1 < i
          omega
        · exact hp.1 d hd
  · rcases Memory.mem_insert.1 hc with rfl | hc
    · exact hb
    · exact h.2 c hc

/-- A write keeps the canonical form. -/
theorem Memory.write_wf {m : Memory} (h : Memory.wf m) (i : Nat) (b : Byte) : Memory.wf (Memory.write m i b) := by
  unfold Memory.write
  split_ifs with hb
  · exact Memory.erase_wf h i
  · exact Memory.insert_wf (Memory.erase_wf h i) (Memory.erase_ne m i) hb

theorem Memory.writeWord_wf {m : Memory} (h : Memory.wf m) (i : Nat) (d : Word) :
    Memory.wf (Memory.writeWord m i d) :=
  Memory.write_wf (Memory.write_wf h _ _) _ _

theorem Memory.below_wf {m : Memory} (h : Memory.wf m) (n : Nat) : Memory.wf (Memory.below m n) :=
  ⟨h.1.filter _, fun c hc => h.2 c (List.mem_of_mem_filter hc)⟩

theorem Memory.ofBytes_bounds (bs : List Byte) (k : Nat) :
    ∀ c ∈ Memory.ofBytes k bs, k ≤ c.1 ∧ c.1 < k + bs.length ∧ c.2 ≠ 0 := by
  induction bs generalizing k with
  | nil => simp [Memory.ofBytes]
  | cons b bs ih =>
    intro c hc
    simp only [Memory.ofBytes] at hc
    simp only [List.length_cons]
    split_ifs at hc with hb
    · obtain ⟨h1, h2, h3⟩ := ih (k + 1) c hc
      exact ⟨by omega, by omega, h3⟩
    · rcases List.mem_cons.1 hc with rfl | hc
      · exact ⟨le_refl _, by simp, hb⟩
      · obtain ⟨h1, h2, h3⟩ := ih (k + 1) c hc
        exact ⟨by omega, by omega, h3⟩

theorem Memory.ofBytes_wf (bs : List Byte) (k : Nat) : Memory.wf (Memory.ofBytes k bs) := by
  refine ⟨?_, fun c hc => (Memory.ofBytes_bounds bs k c hc).2.2⟩
  induction bs generalizing k with
  | nil => simp [Memory.ofBytes]
  | cons b bs ih =>
    simp only [Memory.ofBytes]
    split_ifs
    · exact ih (k + 1)
    · refine List.pairwise_cons.2 ⟨fun d hd => ?_, ih (k + 1)⟩
      have := (Memory.ofBytes_bounds bs (k + 1) d hd).1
      show k < d.1
      omega

theorem Memory.write_within {m : Memory} {n : Nat} (h : Memory.within m n) {i : Nat} (hi : i < n) (b : Byte) :
    Memory.within (Memory.write m i b) n := by
  intro c hc
  unfold Memory.write at hc
  split_ifs at hc
  · exact h c (List.mem_of_mem_filter hc)
  · rcases Memory.mem_insert.1 hc with rfl | hc
    · exact hi
    · exact h c (List.mem_of_mem_filter hc)

theorem Memory.writeWord_within {m : Memory} {n : Nat} (h : Memory.within m n) {i : Nat} (hi : i + 1 < n) (d : Word) :
    Memory.within (Memory.writeWord m i d) n :=
  Memory.write_within (Memory.write_within h (by omega) _) hi _

theorem Memory.below_within (m : Memory) (n : Nat) : Memory.within (Memory.below m n) n := by
  intro c hc
  simpa using (List.mem_filter.1 hc).2

theorem Memory.read_eq_zero_of_within {m : Memory} {n i : Nat} (h : Memory.within m n) (hi : n ≤ i) :
    Memory.read m i = 0 :=
  Memory.read_eq_zero_of_not_mem fun c hc => by have := h c hc; omega

/-- Canonical memories that read the same are the same data. -/
theorem Memory.ext_of_wf {m m' : Memory} (h : Memory.wf m) (h' : Memory.wf m')
    (hr : ∀ i, Memory.read m i = Memory.read m' i) : m = m' := by
  induction m generalizing m' with
  | nil =>
    cases m' with
    | nil => rfl
    | cons c m' =>
      have := hr c.1
      simp only [Memory.read_nil, Memory.read_cons, if_true] at this
      exact absurd this.symm (h'.2 c (by simp))
  | cons c m ih =>
    cases m' with
    | nil =>
      have := hr c.1
      simp only [Memory.read_nil, Memory.read_cons, if_true] at this
      exact absurd this (h.2 c (by simp))
    | cons d m' =>
      have hp := List.pairwise_cons.1 h.1
      have hp' := List.pairwise_cons.1 h'.1
      have hcd : c.1 = d.1 := by
        rcases lt_trichotomy c.1 d.1 with hlt | heq | hgt
        · have hz : Memory.read (d :: m') c.1 = 0 :=
            Memory.read_eq_zero_of_not_mem fun e he => by
              rcases List.mem_cons.1 he with rfl | he
              · omega
              · have := hp'.1 e he; omega
          have := hr c.1
          rw [hz, Memory.read_cons, if_pos rfl] at this
          exact absurd this (h.2 c (by simp))
        · exact heq
        · have hz : Memory.read (c :: m) d.1 = 0 :=
            Memory.read_eq_zero_of_not_mem fun e he => by
              rcases List.mem_cons.1 he with rfl | he
              · omega
              · have := hp.1 e he; omega
          have := hr d.1
          rw [hz, Memory.read_cons, if_pos rfl] at this
          exact absurd this.symm (h'.2 d (by simp))
      have hcd2 : c.2 = d.2 := by
        have := hr c.1
        rwa [Memory.read_cons, if_pos rfl, Memory.read_cons, if_pos hcd.symm] at this
      have hm : m = m' := ih ⟨hp.2, fun e he => h.2 e (by simp [he])⟩ ⟨hp'.2, fun e he => h'.2 e (by simp [he])⟩
        fun i => by
          by_cases hi : c.1 = i
          · rw [Memory.read_eq_zero_of_not_mem fun e he => by have := hp.1 e he; omega,
              Memory.read_eq_zero_of_not_mem fun e he => by have := hp'.1 e he; omega]
          · have := hr i
            rwa [Memory.read_cons, if_neg hi, Memory.read_cons, if_neg (hcd ▸ hi)] at this
      rw [hm, Prod.ext hcd hcd2]

/-! ### Byte lists -/

theorem Image.empty_wf : Image.wf Image.empty := by decide

theorem Image.byte_eq_read {img : Image} (h : Image.wf img) (i : Nat) : Image.byte img i = Memory.read img.cells i := by
  unfold Image.byte
  split_ifs with hi
  · rfl
  · exact (Memory.read_eq_zero_of_within h.2 (by omega)).symm

theorem Image.ofBytes_wf (bs : List Byte) : Image.wf (Image.ofBytes bs) :=
  ⟨Memory.ofBytes_wf bs 0, fun c hc => by
    have := (Memory.ofBytes_bounds bs 0 c hc).2.1
    simpa [Image.ofBytes] using this⟩

theorem Image.padded_wf {bs : List Byte} {size : Nat} (h : bs.length ≤ size) : Image.wf (Image.padded bs size) :=
  ⟨Memory.ofBytes_wf bs 0, fun c hc => by
    have := (Memory.ofBytes_bounds bs 0 c hc).2.1
    simp only [Image.padded]
    omega⟩

/-- A byte of a padded image: the byte given, and 0x00 beyond. -/
theorem Image.byte_padded {bs : List Byte} {size : Nat} (h : bs.length ≤ size) (i : Nat) :
    Image.byte (Image.padded bs size) i = bs.getD i 0 := by
  rw [Image.byte_eq_read (Image.padded_wf h)]
  simp [Image.padded, Memory.read_ofBytes]

theorem Image.byte_ofBytes (bs : List Byte) (i : Nat) : Image.byte (Image.ofBytes bs) i = bs.getD i 0 := by
  rw [Image.byte_eq_read (Image.ofBytes_wf bs)]
  simp [Image.ofBytes, Memory.read_ofBytes]

/-! ### CRU lines -/

theorem CruLines.mem_insert {l : CruLines} {i j : Nat} : j ∈ CruLines.insert l i ↔ j = i ∨ j ∈ l := by
  induction l with
  | nil => simp [CruLines.insert]
  | cons k l ih =>
    simp only [CruLines.insert]
    split_ifs
    · simp
    · simp only [List.mem_cons, ih]
      tauto

/-- Reading a line after a write: the value written at its index, the old value elsewhere. -/
theorem CruLines.read_write (l : CruLines) (i : Nat) (v : Bool) (j : Nat) :
    CruLines.read (CruLines.write l i v) j = if j = i then v else CruLines.read l j := by
  unfold CruLines.write CruLines.read
  cases v with
  | false =>
    by_cases h : j = i
    · simp [h]
    · by_cases hm : j ∈ l <;> simp [h, hm]
  | true =>
    by_cases h : j = i
    · simp [h, CruLines.mem_insert]
    · by_cases hm : j ∈ l <;> simp [h, hm, CruLines.mem_insert]

theorem CruLines.write_wf {l : CruLines} (h : CruLines.wf l) {i : Nat} (hi : i < 4096) (v : Bool) :
    CruLines.wf (CruLines.write l i v) := by
  have hf : CruLines.wf (l.filter (fun j => j != i)) :=
    ⟨h.1.filter _, fun j hj => h.2 j (List.mem_of_mem_filter hj)⟩
  have hne : ∀ j ∈ l.filter (fun j => j != i), j ≠ i := fun j hj => by simpa using (List.mem_filter.1 hj).2
  cases v with
  | false => simpa [CruLines.write] using hf
  | true =>
    simp only [CruLines.write, if_true]
    generalize l.filter (fun j => j != i) = m at hf hne
    refine ⟨?_, fun j hj => ?_⟩
    · have hp := hf.1
      clear hf h
      induction m with
      | nil => simp [CruLines.insert]
      | cons k m ih =>
        rw [List.pairwise_cons] at hp
        have hki : k ≠ i := hne k (by simp)
        simp only [CruLines.insert]
        split_ifs with hlt
        · refine List.pairwise_cons.2 ⟨fun d hd => ?_, List.pairwise_cons.2 hp⟩
          rcases List.mem_cons.1 hd with rfl | hd
          · exact hlt
          · exact lt_trans hlt (hp.1 d hd)
        · refine List.pairwise_cons.2 ⟨fun d hd => ?_, ih (fun d hd => hne d (by simp [hd])) hp.2⟩
          rcases CruLines.mem_insert.1 hd with rfl | hd
          · omega
          · exact hp.1 d hd
    · rcases CruLines.mem_insert.1 hj with rfl | hj
      · exact hi
      · exact hf.2 j hj

/-! ### The state after power-on -/

/-- Every store of the reset state is canonical. -/
theorem reset_stores_wf :
    Memory.wf State.reset.decoder.rom ∧ Memory.wf State.reset.decoder.ram ∧ Memory.wf State.reset.bsc.cartRam ∧
      Memory.wf State.reset.ams.mem ∧ (∀ i : Fin 16, Memory.wf State.reset.gsq.grom[i]) ∧
      CruLines.wf State.reset.cru.bits := by
  refine ⟨by decide, by decide, by decide, by decide, ?_, by decide⟩
  intro i
  have hg : State.reset.gsq.grom[i] = [] := by simp [State.reset]
  rw [hg]
  decide

end Sys2Proof.Machine
end

