-- ==== Sys2Proof/Laws/Ops.lean ====
section
/-! SUPPORT. What each shared operation can do, said once: AMS translation and RAM routing, the cartridge window, the GROM
sequencer, the CRU writes and the loaders. -/

namespace Sys2Proof.Machine

/-! ### AMS translation (20_memory.md R66 to R68) -/

/-- Both bytes of a word lie in one page. -/
theorem amsPhys_succ (p : Params) (u : PageMapper) {a : Word} (h : a.toNat % 2 = 0) :
    amsPhys p u (a + 1) = (amsPhys p u a).map Nat.succ := by
  have := a.isLt
  have hw : amsWindow (a + 1) = amsWindow a :=
    BitVec.eq_of_toNat_eq (by rw [amsWindow_toNat, amsWindow_toNat, succ_toNat h]; omega)
  have ho : (a + 1).toNat % 0x1000 = a.toNat % 0x1000 + 1 := by
    rw [succ_toNat h]
    omega
  unfold amsPhys
  rw [hw, ho, Option.map_map]
  rfl

/-- Low and high RAM are always mapped (10_state.md R36). -/
theorem amsPhys_ram (p : Params) (u : PageMapper) {a : Word}
    (h : (0x2000 ≤ a.toNat ∧ a.toNat < 0x4000) ∨ 0xA000 ≤ a.toNat) : ∃ x, amsPhys p u a = some x := by
  unfold amsPhys amsPage
  split_ifs with hm
  · exact ⟨_, rfl⟩
  · unfold tmap
    have := a.isLt
    rw [if_pos (by rw [amsWindow_toNat]; omega)]
    exact ⟨_, rfl⟩

theorem and_pred_lt (x : Nat) {n : Nat} (h : 0 < n) : x &&& (n - 1) < n := by
  have : x &&& (n - 1) ≤ n - 1 := Nat.and_le_right
  omega

/-- A translated address lies in the store (20_memory.md R80). -/
theorem amsPhys_lt {p : Params} (hp : 0 < p.amsPages) (u : PageMapper) {a : Word} {x : Nat}
    (h : amsPhys p u a = some x) : x < p.amsPages * 0x1000 := by
  unfold amsPhys at h
  obtain ⟨page, -, rfl⟩ := Option.map_eq_some_iff.1 h
  have := and_pred_lt page hp
  omega

@[simp] theorem amsPhys_mem (p : Params) (u : PageMapper) (m : Memory) (a : Word) :
    amsPhys p { u with mem := m } a = amsPhys p u a := rfl

/-- What a byte set in LORAM or HIRAM does: one byte of AMS_MEM, one byte of RAM, or nothing. -/
theorem setRamByte_eq (s : State) (a : Word) (b : Byte) :
    setRamByte s a b =
      if s.decoder.amsEn then
        (match amsPhys s.params s.ams a with
        | some x => { s with ams.mem := Memory.write s.ams.mem x b }
        | none => s)
      else if s.decoder.ram32kEn then { s with decoder.ram := Memory.write s.decoder.ram a.toNat b }
      else s := by
  unfold setRamByte amsSet
  cases amsPhys s.params s.ams a <;> rfl

/-- What a word write of LORAM or HIRAM does. -/
theorem ramWrite16_eq (s : State) {e : Word} (he : e.toNat % 2 = 0) (d : Word) :
    ramWrite16 s e d =
      if s.decoder.amsEn then
        (match amsPhys s.params s.ams e with
        | some x => { s with ams.mem := Memory.writeWord s.ams.mem x d }
        | none => s)
      else if s.decoder.ram32kEn then { s with decoder.ram := Memory.writeWord s.decoder.ram e.toNat d }
      else s := by
  have h1 := amsPhys_succ s.params s.ams he
  rw [ramWrite16, setRamByte_eq, setRamByte_eq]
  by_cases ha : s.decoder.amsEn = true
  · cases hx : amsPhys s.params s.ams e with
    | none =>
      rw [hx] at h1
      simp only [ha, if_true, h1, Option.map_none]
    | some x =>
      rw [hx] at h1
      simp only [ha, if_true, amsPhys_mem, h1, Option.map_some]
      rfl
  · by_cases hk : s.decoder.ram32kEn = true
    · simp only [ha, hk, if_false, if_true, Bool.false_eq_true]
      rw [succ_toNat he]
      rfl
    · simp [ha, hk]

/-! ### The cartridge window (40_bus_memory.md R121 to R125) -/

theorem ramSeated_iff (b : BankSwitch) {e : Word} (h1 : 0x6000 ≤ e.toNat) (h2 : e.toNat < 0x8000) :
    ramSeated b e = true ↔ (e.toNat < 0x7000 ∧ b.cartRam6 = true) ∨ (0x7000 ≤ e.toNat ∧ b.cartRam7 = true) := by
  unfold ramSeated
  rw [cartHalf_eq h1 h2]
  by_cases h : 0x7000 ≤ e.toNat
  · have h' : ¬ e.toNat < 0x7000 := by omega
    simp [h, h']
  · have h' : e.toNat < 0x7000 := by omega
    simp [h, h']

theorem cartRamIdx_eq (b : BankSwitch) {e : Word} (h1 : 0x6000 ≤ e.toNat) (h2 : e.toNat < 0x8000) :
    cartRamIdx b e =
      if 0x7000 ≤ e.toNat ∧ b.cartPaged = true ∧ b.cartRam7 = true then b.ramBank * 0x1000 + (e.toNat - 0x7000)
      else e.toNat - 0x6000 := by
  unfold cartRamIdx cartRamPaged
  rw [cartHalf_eq h1 h2]
  by_cases h : 0x7000 ≤ e.toNat
  · have hm : e.toNat % 0x1000 = e.toNat - 0x7000 := by omega
    rw [hm]
    cases b.cartPaged <;> cases b.cartRam7 <;> simp [h]
  · simp [h]

/-- A cartridge RAM access stays in the store. -/
theorem cartRamIdx_lt {p : Params} {b : BankSwitch} (hb : b.ramBank < p.cartRamBanks) {e : Word}
    (h1 : 0x6000 ≤ e.toNat) (h2 : e.toNat < 0x8000) (he : e.toNat % 2 = 0) :
    cartRamIdx b e + 1 < cartRamSize p := by
  have h3 : b.ramBank * 0x1000 + 0x1000 ≤ p.cartRamBanks * 0x1000 := by omega
  have h4 := le_max_left 0x2000 (p.cartRamBanks * 0x1000)
  have h5 := le_max_right 0x2000 (p.cartRamBanks * 0x1000)
  rw [cartRamIdx_eq b h1 h2]
  unfold cartRamSize
  split_ifs <;> omega

/-- A bank select keeps everything but the two indices, and keeps both in range (20_memory.md R80). -/
theorem bankSelect_keeps (p : Params) (b : BankSwitch) (e d : Word) :
    ∃ r q, bankSelect p b e d = { b with romBank := r, ramBank := q } ∧
      (b.romBank < max (cartBanks b) 1 → r < max (cartBanks b) 1) ∧
      (0 < p.cartRamBanks → b.ramBank < p.cartRamBanks → q < p.cartRamBanks) := by
  unfold bankSelect
  split_ifs with h1 h2 h3
  · exact ⟨b.romBank, _, rfl, id, fun hp _ => and_pred_lt _ hp⟩
  · refine ⟨_, b.ramBank, rfl, fun _ => lt_of_lt_of_le ?_ (le_max_left _ _), fun _ => id⟩
    omega
  · exact ⟨_, b.ramBank, rfl, fun _ => lt_of_lt_of_le (and_pred_lt _ h2) (le_max_left _ _), fun _ => id⟩
  · exact ⟨b.romBank, b.ramBank, rfl, id, fun _ => id⟩

/-! ### The GROM sequencer (41_grom.md R160 to R168) -/

theorem gbase_eq (g : GromSeq) (a : Word) :
    gbase g (evenAddr a) = if gmulti g then BitVec.ofNat 4 (a.toNat / 4) else 0 := by
  unfold gbase
  split_ifs
  · apply BitVec.eq_of_toNat_eq
    rw [gromBaseField_toNat]
    simp
  · rfl

theorem at16_grefill_gpref (g : GromSeq) (b : BitVec 4) :
    at16 (grefill g).gpref b = Memory.read (at16 g.grom b) g.gaddr.toNat := by
  unfold at16 grefill
  simp

@[simp] theorem grefill_grom (g : GromSeq) : (grefill g).grom = g.grom := rfl
@[simp] theorem grefill_gpop (g : GromSeq) : (grefill g).gpop = g.gpop := rfl
@[simp] theorem grefill_gaddr (g : GromSeq) : (grefill g).gaddr = g.gaddr := rfl
@[simp] theorem grefill_gphase (g : GromSeq) : (grefill g).gphase = g.gphase := rfl
@[simp] theorem ginc_grom (g : GromSeq) : (ginc g).grom = g.grom := rfl
@[simp] theorem ginc_gpop (g : GromSeq) : (ginc g).gpop = g.gpop := rfl
@[simp] theorem ginc_gaddr (g : GromSeq) : (ginc g).gaddr = g.gaddr + 1 := rfl
@[simp] theorem ginc_gphase (g : GromSeq) : (ginc g).gphase = g.gphase := rfl
@[simp] theorem ginc_gpref (g : GromSeq) : (ginc g).gpref = g.gpref := rfl
@[simp] theorem gromStore_gpop (g : GromSeq) (b : BitVec 4) (i : Word) (v : Byte) : (gromStore g b i v).gpop = g.gpop := rfl
@[simp] theorem gromStore_gaddr (g : GromSeq) (b : BitVec 4) (i : Word) (v : Byte) :
    (gromStore g b i v).gaddr = g.gaddr := rfl
@[simp] theorem gromStore_gphase (g : GromSeq) (b : BitVec 4) (i : Word) (v : Byte) :
    (gromStore g b i v).gphase = g.gphase := rfl
@[simp] theorem gromStore_gpref (g : GromSeq) (b : BitVec 4) (i : Word) (v : Byte) :
    (gromStore g b i v).gpref = g.gpref := rfl

/-- A byte of a base after one is stored. -/
theorem read_gromStore (g : GromSeq) (b c : BitVec 4) (i : Word) (v : Byte) (x : Nat) :
    Memory.read (at16 (gromStore g b i v).grom c) x =
      if c = b ∧ x = i.toNat then v else Memory.read (at16 g.grom c) x := by
  show Memory.read (at16 (put16 g.grom b (Memory.write (at16 g.grom b) i.toNat v)) c) x = _
  rw [at16_put16]
  by_cases hc : c = b
  · subst hc
    simp [Memory.read_write]
  · simp [hc]

theorem pred_toNat (a : Word) : (a - 1).toNat = (a.toNat + 0xFFFF) % 0x10000 := by
  rw [BitVec.toNat_sub]
  simp
  omega

theorem be16_lo8_laneByte (a d : Word) :
    be16 (lo8 a) (laneByte d) = BitVec.ofNat 16 (a.toNat % 0x100 * 0x100 + d.toNat / 0x100) := by
  apply BitVec.eq_of_toNat_eq
  have := d.isLt
  rw [be16_toNat, lo8_toNat, laneByte, hi8_toNat]
  simp
  omega

/-! ### The CRU (42_cru.md R189, R195, R199) -/

theorem read_storeLine (c : CruUnit) (i : Nat) (v : Bool) (j : Nat) :
    CruLines.read (storeLine c i v).bits j = if j = i then v else CruLines.read c.bits j :=
  CruLines.read_write _ _ _ _

/-- A clock write keeps everything but CLK and DEC; DEC is the new CLK wherever that is not 0. -/
theorem clockWrite_eq (c : CruUnit) (bit : CruBit) (v : Bool) :
    clockWrite c bit v =
      { c with
        clk := putBit c.clk (bit.toNat - 1) v
        dec := if putBit c.clk (bit.toNat - 1) v = 0 then c.dec else ((putBit c.clk (bit.toNat - 1) v).toNat : Int) } :=
  rfl

theorem timerTick_eq (c : CruUnit) (delta : Nat) :
    timerTick c delta =
      if c.clk = 0 then { c with elapsed := c.elapsed + delta }
      else if c.dec - delta ≤ 0 then { c with elapsed := c.elapsed + delta, dec := (c.clk.toNat : Int), tint := true }
      else { c with elapsed := c.elapsed + delta, dec := c.dec - delta } := rfl

/-- A DSR-space write changes the selection of the decoder and the controls of the page mapper, and nothing else of
them. -/
theorem dsrSelect_keeps (p : Params) (d : Decoder) (bit : CruBit) (v : Bool) :
    ∃ n e, dsrSelect p d bit v = { d with dsrSel := n, dsrEn := e } := by
  unfold dsrSelect
  dsimp only
  split_ifs <;> exact ⟨_, _, rfl⟩

theorem amsControl_keeps (u : PageMapper) (bit : CruBit) (v : Bool) :
    ∃ m a, amsControl u bit v = { u with mode := m, acc := a } := by
  unfold amsControl
  dsimp only
  split_ifs <;> exact ⟨_, _, rfl⟩

/-- The normal-mode write of a bit stores its line and may change the selection, the AMS controls and the reply; nothing
else. -/
theorem normalWrite_keeps (bit : CruBit) (v : Bool) (s : State) :
    ∃ n e m a r, normalWrite bit v s =
      { s with
        cru := storeLine s.cru bit.toNat v
        decoder := { s.decoder with dsrSel := n, dsrEn := e }
        ams := { s.ams with mode := m, acc := a }
        reply := r } := by
  unfold normalWrite
  split_ifs with h1 h2 h3
  · subst h1
    exact ⟨_, _, _, _, _, rfl⟩
  · subst h2
    exact ⟨_, _, _, _, _, rfl⟩
  · obtain ⟨n, e, hd⟩ := dsrSelect_keeps s.params s.decoder bit v
    obtain ⟨m, a, hu⟩ := amsControl_keeps s.ams bit v
    refine ⟨n, e, m, a, ⟨.nothing, 0, [], none⟩, ?_⟩
    unfold dsrWrite
    rw [hd, hu]
    rfl
  · exact ⟨_, _, _, _, _, rfl⟩

/-! ### Loaders (43_host.md R210 to R213) -/

/-- One byte of LOAD_RAM changes at most one byte of RAM, AMS_MEM or CART_RAM. -/
theorem loadRamByte_keeps (t : Word) (b : Byte) (s : State) :
    ∃ m1 m2 m3, loadRamByte t b s = { s with decoder.ram := m1, ams.mem := m2, bsc.cartRam := m3 } := by
  unfold loadRamByte
  cases region t with
  | loram =>
    simp only [setRamByte_eq]
    split_ifs
    · cases amsPhys s.params s.ams t <;> exact ⟨_, _, _, rfl⟩
    · exact ⟨_, _, _, rfl⟩
    · exact ⟨_, _, _, rfl⟩
  | hiram =>
    simp only [setRamByte_eq]
    split_ifs
    · cases amsPhys s.params s.ams t <;> exact ⟨_, _, _, rfl⟩
    · exact ⟨_, _, _, rfl⟩
    · exact ⟨_, _, _, rfl⟩
  | cart =>
    dsimp only
    split_ifs <;> exact ⟨_, _, _, rfl⟩
  | _ => exact ⟨_, _, _, rfl⟩

/-- A load of bytes changes RAM, AMS_MEM and CART_RAM and nothing else. -/
theorem loadRamBytes_keeps (bs : List Byte) (t : Word) (s : State) :
    ∃ m1 m2 m3, loadRamBytes t bs s = { s with decoder.ram := m1, ams.mem := m2, bsc.cartRam := m3 } := by
  induction bs generalizing t s with
  | nil => exact ⟨_, _, _, rfl⟩
  | cons b bs ih =>
    obtain ⟨a1, a2, a3, h⟩ := loadRamByte_keeps t b s
    obtain ⟨m1, m2, m3, h'⟩ := ih (t + 1) (loadRamByte t b s)
    exact ⟨m1, m2, m3, by rw [loadRamBytes, h', h]⟩

/-- A GROM load changes the bytes of the bases and nothing else. -/
theorem loadGromBytes_keeps (base : BitVec 4) (bs : List Byte) (o : Word) (g : GromSeq) :
    ∃ G, loadGromBytes base o bs g = { g with grom := G } := by
  induction bs generalizing o g with
  | nil => exact ⟨_, rfl⟩
  | cons b bs ih =>
    obtain ⟨G, h⟩ := ih (o + 1) (gromStore g base o b)
    exact ⟨G, by rw [loadGromBytes, h]; rfl⟩

theorem at16_populate (g : GromSeq) (base b : BitVec 4) :
    at16 (populate g base).gpop b = if b = base ∧ base ≠ 0 then true else at16 g.gpop b := by
  unfold populate
  by_cases h : base = 0
  · simp [h]
  · rw [if_neg h, at16_put16]
    simp only [ne_eq, h, not_false_eq_true, and_true]

theorem paddedSize_bounds (n : Nat) : paddedSize n % 0x2000 = 0 ∧ n ≤ paddedSize n ∧ paddedSize n < n + 0x2000 := by
  unfold paddedSize
  omega

end Sys2Proof.Machine
end

