-- ==== Sys2Proof/Laws/PerInstr.lean ====
section
/-! SUPPORT. A fact about every instruction, one lemma for each constructor: its encoding is the canonical key of
30_encoding.md R90 and R92, with zeros wherever the decoder reads no bit. -/

namespace Sys2Proof.Laws.CanonicalKey

/-- The key of a well-formed instruction has A0 = 0 in a memory key, K[15:13] = 0 in a CRU key (30_encoding.md R90) and
K[11:0] = 0 in a sideband key (R92). -/
def Statement (i : Instr) : Prop :=
  i.wf = true →
    ((encode i).key.toNat < 0x20000 → (encode i).key.toNat % 2 = 0) ∧
    (0x20000 ≤ (encode i).key.toNat → (encode i).key.toNat < 0x40000 → (encode i).key.toNat / 0x2000 % 8 = 0) ∧
    (0x40000 ≤ (encode i).key.toNat → (encode i).key.toNat % 0x1000 = 0)

theorem of_even {i : Instr} {op : Nat} {a : Word} (h : op < 2) (hk : (encode i).key = memKey op a)
    (he : i.wf = true → a.toNat % 2 = 0) : Statement i := by
  intro hw
  have := he hw
  have := a.isLt
  rw [hk, memKey_toNat h]
  omega

theorem of_cru {i : Instr} {op : Nat} {m : Bool} {bit : CruBit} (h : op = 2 ∨ op = 3)
    (hk : (encode i).key = cruKey op m bit) : Statement i := by
  intro _
  have := bit.isLt
  have := bitNat_le m
  rw [hk, cruKey_toNat (by omega)]
  omega

theorem of_sideband {i : Instr} {id : Nat} (h : id < 64) (hk : (encode i).key = sidebandKey id) : Statement i := by
  intro _
  rw [hk, sidebandKey_toNat h]
  omega

theorem mrdRom (a : Word) : Statement (.mrdRom a) := of_even (op := 0) (by decide) rfl fun h => (evenIn_iff.1 h).1

theorem mrdLoram (a : Word) : Statement (.mrdLoram a) :=
  of_even (op := 0) (by decide) rfl fun h => (evenIn_iff.1 h).1

theorem mrdPeriph (a : Word) : Statement (.mrdPeriph a) :=
  of_even (op := 0) (by decide) rfl fun h => (evenIn_iff.1 h).1

theorem mrdCart (a : Word) : Statement (.mrdCart a) := of_even (op := 0) (by decide) rfl fun h => (evenIn_iff.1 h).1

theorem mrdPad (a : Word) : Statement (.mrdPad a) := of_even (op := 0) (by decide) rfl fun h => (evenIn_iff.1 h).1

theorem mrdSound (a : Word) : Statement (.mrdSound a) :=
  of_even (op := 0) (by decide) rfl fun h => (evenIn_iff.1 h).1

theorem mrdGap (a : Word) : Statement (.mrdGap a) := of_even (op := 0) (by decide) rfl fun h => (evenIn_iff.1 h).1

theorem mrdVdpData (a : Word) : Statement (.mrdVdpData a) :=
  of_even (op := 0) (by decide) rfl fun h => (evenIn_iff.1 (Bool.and_eq_true_iff.1 h).1).1

theorem mrdVdpStat (a : Word) : Statement (.mrdVdpStat a) :=
  of_even (op := 0) (by decide) rfl fun h => (evenIn_iff.1 (Bool.and_eq_true_iff.1 h).1).1

theorem mrdVdpWp (a : Word) : Statement (.mrdVdpWp a) :=
  of_even (op := 0) (by decide) rfl fun h => (evenIn_iff.1 h).1

theorem mrdSpch (a : Word) : Statement (.mrdSpch a) := of_even (op := 0) (by decide) rfl fun h => (evenIn_iff.1 h).1

theorem mrdSpchWp (a : Word) : Statement (.mrdSpchWp a) :=
  of_even (op := 0) (by decide) rfl fun h => (evenIn_iff.1 h).1

theorem mrdGrData (a : Word) : Statement (.mrdGrData a) :=
  of_even (op := 0) (by decide) rfl fun h => (evenIn_iff.1 (Bool.and_eq_true_iff.1 h).1).1

theorem mrdGrAddr (a : Word) : Statement (.mrdGrAddr a) :=
  of_even (op := 0) (by decide) rfl fun h => (evenIn_iff.1 (Bool.and_eq_true_iff.1 h).1).1

theorem mrdGrWp (a : Word) : Statement (.mrdGrWp a) := of_even (op := 0) (by decide) rfl fun h => (evenIn_iff.1 h).1

theorem mrdHiram (a : Word) : Statement (.mrdHiram a) :=
  of_even (op := 0) (by decide) rfl fun h => (evenIn_iff.1 h).1

theorem mwrRom (a : Word) (d : Word) : Statement (.mwrRom a d) :=
  of_even (op := 1) (by decide) rfl fun h => (evenIn_iff.1 h).1

theorem mwrLoram (a : Word) (d : Word) : Statement (.mwrLoram a d) :=
  of_even (op := 1) (by decide) rfl fun h => (evenIn_iff.1 h).1

theorem mwrPeriph (a : Word) (d : Word) : Statement (.mwrPeriph a d) :=
  of_even (op := 1) (by decide) rfl fun h => (evenIn_iff.1 h).1

theorem mwrCart (a : Word) (d : Word) : Statement (.mwrCart a d) :=
  of_even (op := 1) (by decide) rfl fun h => (evenIn_iff.1 h).1

theorem mwrPad (a : Word) (d : Word) : Statement (.mwrPad a d) :=
  of_even (op := 1) (by decide) rfl fun h => (evenIn_iff.1 h).1

theorem mwrSound (a : Word) (d : Word) : Statement (.mwrSound a d) :=
  of_even (op := 1) (by decide) rfl fun h => (evenIn_iff.1 h).1

theorem mwrGap (a : Word) (d : Word) : Statement (.mwrGap a d) :=
  of_even (op := 1) (by decide) rfl fun h => (evenIn_iff.1 h).1

theorem mwrVdpRp (a : Word) (d : Word) : Statement (.mwrVdpRp a d) :=
  of_even (op := 1) (by decide) rfl fun h => (evenIn_iff.1 h).1

theorem mwrVdpData (a : Word) (d : Word) : Statement (.mwrVdpData a d) :=
  of_even (op := 1) (by decide) rfl fun h => (evenIn_iff.1 (Bool.and_eq_true_iff.1 h).1).1

theorem mwrVdpAddr (a : Word) (d : Word) : Statement (.mwrVdpAddr a d) :=
  of_even (op := 1) (by decide) rfl fun h => (evenIn_iff.1 (Bool.and_eq_true_iff.1 h).1).1

theorem mwrSpchRp (a : Word) (d : Word) : Statement (.mwrSpchRp a d) :=
  of_even (op := 1) (by decide) rfl fun h => (evenIn_iff.1 h).1

theorem mwrSpch (a : Word) (d : Word) : Statement (.mwrSpch a d) :=
  of_even (op := 1) (by decide) rfl fun h => (evenIn_iff.1 h).1

theorem mwrGrRp (a : Word) (d : Word) : Statement (.mwrGrRp a d) :=
  of_even (op := 1) (by decide) rfl fun h => (evenIn_iff.1 h).1

theorem mwrGrData (a : Word) (d : Word) : Statement (.mwrGrData a d) :=
  of_even (op := 1) (by decide) rfl fun h => (evenIn_iff.1 (Bool.and_eq_true_iff.1 h).1).1

theorem mwrGrAddr (a : Word) (d : Word) : Statement (.mwrGrAddr a d) :=
  of_even (op := 1) (by decide) rfl fun h => (evenIn_iff.1 (Bool.and_eq_true_iff.1 h).1).1

theorem mwrHiram (a : Word) (d : Word) : Statement (.mwrHiram a d) :=
  of_even (op := 1) (by decide) rfl fun h => (evenIn_iff.1 h).1

theorem crdMode : Statement .crdMode := of_cru (by decide) rfl

theorem crdTInt : Statement .crdTInt := of_cru (by decide) rfl

theorem crdTClk (bit : CruBit) : Statement (.crdTClk bit) := of_cru (by decide) rfl

theorem crdNVdp : Statement .crdNVdp := of_cru (by decide) rfl

theorem crdNKbd (bit : CruBit) : Statement (.crdNKbd bit) := of_cru (by decide) rfl

theorem crdTapeIn : Statement .crdTapeIn := of_cru (by decide) rfl

theorem crdStored (bit : CruBit) : Statement (.crdStored bit) := of_cru (by decide) rfl

theorem cwrMode (v : Bool) : Statement (.cwrMode v) := of_cru (by decide) rfl

theorem cwrTClk (bit : CruBit) (v : Bool) : Statement (.cwrTClk bit v) := of_cru (by decide) rfl

theorem cwrTB15 (v : Bool) : Statement (.cwrTB15 v) := of_cru (by decide) rfl

theorem cwrTExit (bit : CruBit) (v : Bool) : Statement (.cwrTExit bit v) := of_cru (by decide) rfl

theorem cwrNAck (v : Bool) : Statement (.cwrNAck v) := of_cru (by decide) rfl

theorem cwrNMotor (v : Bool) : Statement (.cwrNMotor v) := of_cru (by decide) rfl

theorem cwrNTapeOut (v : Bool) : Statement (.cwrNTapeOut v) := of_cru (by decide) rfl

theorem cwrDsr (bit : CruBit) (v : Bool) : Statement (.cwrDsr bit v) := of_cru (by decide) rfl

theorem cwrNStore (bit : CruBit) (v : Bool) : Statement (.cwrNStore bit v) := of_cru (by decide) rfl

theorem tick (delta : Nat) : Statement (.tick delta) := of_sideband (by decide) rfl

theorem vdpInt (level : Bool) : Statement (.vdpInt level) := of_sideband (by decide) rfl

theorem reset (kind : ResetKind) : Statement (.reset kind) := of_sideband (by decide) rfl

theorem loadRam (a : Word) (bytes : List Byte) : Statement (.loadRam a bytes) := of_sideband (by decide) rfl

theorem loadGrom (base : BitVec 4) (offset : Word) (bytes : List Byte) : Statement (.loadGrom base offset bytes) :=
  of_sideband (by decide) rfl

theorem loadCart (bytes : List Byte) (inv ram6 ram7 paged : Bool) : Statement (.loadCart bytes inv ram6 ram7 paged) :=
  of_sideband (by decide) rfl

theorem loadDsr (slot : BitVec 4) (bytes : List Byte) : Statement (.loadDsr slot bytes) :=
  of_sideband (by decide) rfl

theorem setRam32k (v : Bool) : Statement (.setRam32k v) := of_sideband (by decide) rfl

theorem setAms (v : Bool) : Statement (.setAms v) := of_sideband (by decide) rfl

theorem setGram (v : Bool) : Statement (.setGram v) := of_sideband (by decide) rfl

theorem getState : Statement .getState := of_sideband (by decide) rfl

theorem restoreState (snap : Snapshot) : Statement (.restoreState snap) := of_sideband (by decide) rfl

theorem dbgRdb (a : Word) : Statement (.dbgRdb a) := of_sideband (by decide) rfl

theorem dbgRdw (a : Word) : Statement (.dbgRdw a) := of_sideband (by decide) rfl

theorem status : Statement .status := of_sideband (by decide) rfl

end Sys2Proof.Laws.CanonicalKey
end

