-- ==== Sys2Proof/Tests/Slice0.lean ====
section
/-! SUPPORT. Tests: keys written out from 30_encoding.md decode to their rows, ill-formed operands are refused by the
checks, instructions answer what the vectors of 95_test_vectors.md say, and every statement's hypotheses are met. -/

namespace Sys2Proof.Tests

open Sys2Proof.Machine

/-! ### Helpers -/

/-- A key decodes to an instruction, every operand beside it absent. -/
def spells (p : Nat × Instr) : Bool := decide (decodeTableWord 24 p.1 = some p.2)

/-- What a transaction with operands decodes to. -/
def spelled (k : Nat) (words bytes : List Nat) : Option Instr :=
  (decode { Txn.ofKey (BitVec.ofNat 19 k) with words := words, bytes := bytes }).toOption

/-- The state after a sequence of instructions. -/
def after (is : List Instr) (s : State) : Option State :=
  match execAll is s with
  | .next t => some t
  | .fault _ | .refused _ => none

/-- The value of the last instruction of a sequence. -/
def answer (is : List Instr) (s : State) : Option Value := (after is s).map (fun t => t.reply.value)

/-- The charge and the device calls of the last instruction of a sequence. -/
def shown (is : List Instr) (s : State) : Option (Nat × List DeviceCall) :=
  (after is s).map (fun t => (t.reply.cycles, t.reply.calls))

/-- The launch state of 95_test_vectors.md section 0, without its two last bytes. -/
def powerOn : State := construct [0x83, 0xE0] [0xAA, 0x02, 0x03] true false false Params.default

/-- The launch state with the AMS on. -/
def amsOn : State := { powerOn with decoder.amsEn := true }

/-- The launch state with the AMS on, its registers accessible and its mapping mode on, page 0x20 in window 10. -/
def amsMapped : State := { amsOn with ams.acc := true, ams.mode := true, ams.reg := put16 identityRegs 10 0x20 }

/-- The 4-bank image of 95_test_vectors.md section 0. -/
def fourBanks : Image :=
  ⟨0x8000, [(0x0000, 0xB0), (0x1000, 0xC0), (0x2000, 0xB1), (0x2001, 1), (0x3000, 0xC1), (0x3001, 1),
    (0x4000, 0xB2), (0x4001, 2), (0x5000, 0xC2), (0x5001, 2), (0x6000, 0xB3), (0x6001, 3), (0x7000, 0xC3),
    (0x7001, 3)]⟩

/-- The launch state with a cartridge. -/
def withCart (inv ram6 ram7 paged : Bool) : State :=
  { powerOn with bsc := ⟨fourBanks, [], inv, ram6, ram7, paged, 0, 0⟩ }

/-- The launch state in timer mode. -/
def timerMode : State := { powerOn with cru.tmode := true }

/-- A state with a device answer of every kind to come, and the timer running. -/
def running : State :=
  { powerOn with cru := { bits := [2, 3, 18, 20], tmode := false, clk := 3, dec := 1, tint := true, vint := true,
                          elapsed := 100 } }

/-! ### Decoding: every row, at the lowest and highest key of its range -/

theorem test_decode_memory_reads :
    [(0x00000, Instr.mrdRom 0x0000), (0x01FFF, .mrdRom 0x1FFE), (0x02000, .mrdLoram 0x2000),
      (0x03FFF, .mrdLoram 0x3FFE), (0x04000, .mrdPeriph 0x4000), (0x05FFF, .mrdPeriph 0x5FFE),
      (0x06003, .mrdCart 0x6002), (0x07FFF, .mrdCart 0x7FFE), (0x08000, .mrdPad 0x8000), (0x083FF, .mrdPad 0x83FE),
      (0x08400, .mrdSound 0x8400), (0x085FF, .mrdSound 0x85FE), (0x08600, .mrdGap 0x8600), (0x087FF, .mrdGap 0x87FE),
      (0x08800, .mrdVdpData 0x8800), (0x08BFD, .mrdVdpData 0x8BFC)].all spells = true := by decide

theorem test_decode_port_reads :
    [(0x08802, Instr.mrdVdpStat 0x8802), (0x08BFF, .mrdVdpStat 0x8BFE), (0x08C00, .mrdVdpWp 0x8C00),
      (0x08FFF, .mrdVdpWp 0x8FFE), (0x09000, .mrdSpch 0x9000), (0x093FF, .mrdSpch 0x93FE),
      (0x09400, .mrdSpchWp 0x9400), (0x097FF, .mrdSpchWp 0x97FE), (0x09800, .mrdGrData 0x9800),
      (0x09BFD, .mrdGrData 0x9BFC), (0x09802, .mrdGrAddr 0x9802), (0x09BFF, .mrdGrAddr 0x9BFE),
      (0x09C00, .mrdGrWp 0x9C00), (0x09FFF, .mrdGrWp 0x9FFE), (0x0A000, .mrdHiram 0xA000),
      (0x0FFFF, .mrdHiram 0xFFFE)].all spells = true := by decide

theorem test_decode_memory_writes :
    [(0x10000, Instr.mwrRom 0x0000 0), (0x11FFF, .mwrRom 0x1FFE 0), (0x12000, .mwrLoram 0x2000 0),
      (0x13FFF, .mwrLoram 0x3FFE 0), (0x14000, .mwrPeriph 0x4000 0), (0x15FFF, .mwrPeriph 0x5FFE 0),
      (0x16002, .mwrCart 0x6002 0), (0x17FFF, .mwrCart 0x7FFE 0), (0x18000, .mwrPad 0x8000 0),
      (0x183FF, .mwrPad 0x83FE 0), (0x18400, .mwrSound 0x8400 0), (0x185FF, .mwrSound 0x85FE 0),
      (0x18600, .mwrGap 0x8600 0), (0x187FF, .mwrGap 0x87FE 0), (0x18800, .mwrVdpRp 0x8800 0),
      (0x18BFF, .mwrVdpRp 0x8BFE 0)].all spells = true := by decide

theorem test_decode_port_writes :
    [(0x18C00, Instr.mwrVdpData 0x8C00 0), (0x18FFD, .mwrVdpData 0x8FFC 0), (0x18C02, .mwrVdpAddr 0x8C02 0),
      (0x18FFF, .mwrVdpAddr 0x8FFE 0), (0x19000, .mwrSpchRp 0x9000 0), (0x193FF, .mwrSpchRp 0x93FE 0),
      (0x19400, .mwrSpch 0x9400 0), (0x197FF, .mwrSpch 0x97FE 0), (0x19800, .mwrGrRp 0x9800 0),
      (0x19BFF, .mwrGrRp 0x9BFE 0), (0x19C00, .mwrGrData 0x9C00 0), (0x19FFD, .mwrGrData 0x9FFC 0),
      (0x19C02, .mwrGrAddr 0x9C02 0), (0x19FFF, .mwrGrAddr 0x9FFE 0), (0x1A000, .mwrHiram 0xA000 0),
      (0x1FFFF, .mwrHiram 0xFFFE 0)].all spells = true := by decide

theorem test_decode_cru_reads :
    [(0x20000, Instr.crdMode), (0x21000, .crdMode), (0x2100F, .crdTInt), (0x21001, .crdTClk 1),
      (0x2100E, .crdTClk 14), (0x21003, .crdTClk 3), (0x20002, .crdNVdp), (0x20003, .crdNKbd 3),
      (0x2000A, .crdNKbd 10), (0x2E003, .crdNKbd 3), (0x2001B, .crdTapeIn), (0x2101B, .crdTapeIn),
      (0x20001, .crdStored 1), (0x2000B, .crdStored 11), (0x2000F, .crdStored 15), (0x21010, .crdStored 16),
      (0x2101A, .crdStored 26), (0x2001C, .crdStored 28), (0x20FFF, .crdStored 0xFFF)].all spells = true := by decide

theorem test_decode_cru_writes :
    [(0x30000, Instr.cwrMode false), (0x31000, .cwrMode false), (0x31001, .cwrTClk 1 false),
      (0x3100E, .cwrTClk 14 false), (0x3100F, .cwrTB15 false), (0x31010, .cwrTExit 16 false),
      (0x31FFF, .cwrTExit 0xFFF false), (0x30003, .cwrNAck false), (0x30016, .cwrNMotor false),
      (0x30019, .cwrNTapeOut false), (0x30800, .cwrDsr 0x800 false), (0x30FFF, .cwrDsr 0xFFF false),
      (0x30001, .cwrNStore 1 false), (0x30002, .cwrNStore 2 false), (0x30004, .cwrNStore 4 false),
      (0x30015, .cwrNStore 21 false), (0x30017, .cwrNStore 23 false), (0x3001A, .cwrNStore 26 false),
      (0x307FF, .cwrNStore 0x7FF false)].all spells = true := by decide

theorem test_decode_sideband :
    [(0x40000, Instr.tick 0), (0x41000, .vdpInt false), (0x42000, .reset .cold), (0x43000, .loadRam 0 []),
      (0x44000, .loadGrom 0 0 []), (0x45000, .loadCart [] false false false false), (0x46000, .loadDsr 0 []),
      (0x47000, .setRam32k false), (0x48000, .setAms false), (0x49000, .setGram false), (0x4A000, .getState),
      (0x4B000, .restoreState .absent), (0x4C000, .dbgRdb 0), (0x4D000, .dbgRdw 0), (0x4E000, .status)].all spells
      = true := by decide

theorem test_decode_refuses_unused_ids :
    decodeTableWord 24 0x4F000 = none ∧ decodeTableWord 24 0x7F000 = none := by decide

theorem test_decode_operands :
    spelled 0x1FFFF [0xA55A] [] = some (.mwrHiram 0xFFFE 0xA55A) ∧
    spelled 0x31F00 [1] [] = some (.cwrTExit 0xF00 true) ∧
    spelled 0x40000 [70000] [] = some (.tick 70000) ∧
    spelled 0x42000 [1] [] = some (.reset .warm) ∧
    spelled 0x43000 [0xFFFF] [0x12, 0x34] = some (.loadRam 0xFFFF [0x12, 0x34]) ∧
    spelled 0x44000 [15, 0x6000] [0x41] = some (.loadGrom 15 0x6000 [0x41]) ∧
    spelled 0x45000 [1, 0, 1, 0] [0xAB] = some (.loadCart [0xAB] true false true false) ∧
    spelled 0x46000 [1] [0xAA, 0x01] = some (.loadDsr 1 [0xAA, 0x01]) ∧
    spelled 0x4D000 [0x6001] [] = some (.dbgRdw 0x6001) := by decide

/-- The keys with operands decode as the encoder writes them. -/
theorem test_encode :
    (encode (.mrdCart 0x6002)).key = 0x06002 ∧ (encode (.mwrGrAddr 0x9C02 0x6000)).key = 0x19C02 ∧
    (encode (.cwrTExit 0xF00 true)).key = 0x31F00 ∧ (encode (.crdNKbd 3)).key = 0x20003 ∧
    (encode (.dbgRdw 5)).key = 0x4D000 := by decide

/-! ### Ill-formed terms, one for each check -/

theorem test_wf_refuses_reads :
    [Instr.mrdRom 0x0001, .mrdRom 0x2000, .mrdLoram 0x1FFE, .mrdPeriph 0x6000, .mrdCart 0x8000, .mrdPad 0x8400,
      .mrdSound 0x8600, .mrdGap 0x8800, .mrdVdpData 0x8802, .mrdVdpData 0x8C00, .mrdVdpStat 0x8800, .mrdVdpWp 0x8BFE,
      .mrdSpch 0x9400, .mrdSpchWp 0x93FE, .mrdGrData 0x9802, .mrdGrAddr 0x9800, .mrdGrWp 0x9BFE,
      .mrdHiram 0x9FFE].all (fun i => !i.wf) = true := by decide

theorem test_wf_refuses_writes :
    [Instr.mwrRom 0x2000 0, .mwrLoram 0x4000 0, .mwrPeriph 0x3FFE 0, .mwrCart 0x5FFE 0, .mwrPad 0x7FFE 0,
      .mwrSound 0x83FE 0, .mwrGap 0x85FE 0, .mwrVdpRp 0x8C00 0, .mwrVdpData 0x8C02 0, .mwrVdpAddr 0x8C00 0,
      .mwrSpchRp 0x9400 0, .mwrSpch 0x9000 0, .mwrGrRp 0x9C00 0, .mwrGrData 0x9C02 0, .mwrGrAddr 0x9C00 0,
      .mwrHiram 0x9FFE 0, .mwrHiram 0xA001 0].all (fun i => !i.wf) = true := by decide

theorem test_wf_refuses_cru_bits :
    [Instr.crdTClk 0, .crdTClk 15, .crdNKbd 2, .crdNKbd 11, .crdStored 0, .crdStored 2, .crdStored 10, .crdStored 27,
      .cwrTClk 0 true, .cwrTClk 15 true, .cwrTExit 15 true, .cwrDsr 0x7FF true, .cwrNStore 0 true, .cwrNStore 3 true,
      .cwrNStore 22 true, .cwrNStore 25 true, .cwrNStore 0x800 true].all (fun i => !i.wf) = true := by decide

/-! ### One step: the timed reads -/

/-- V-MEM-01, V-MEM-13. -/
theorem test_mrdRom : answer [.mrdRom 0x0000] powerOn = some (.word 0x83E0) ∧
    shown [.mrdRom 0x0000] powerOn = some (4, []) := by decide

/-- V-MEM-03: the word written at 0x2000, and V-MEM-04: nothing with both sources off. -/
theorem test_loram : answer [.mwrLoram 0x2000 0xBEEF, .mrdLoram 0x2000] powerOn = some (.word 0xBEEF) ∧
    answer [.setRam32k false, .mwrLoram 0x2000 0x1111, .setRam32k true, .mrdLoram 0x2000] powerOn = some (.word 0) := by
  decide

/-- V-MEM-05. -/
theorem test_hiram : answer [.mwrHiram 0xFFFE 0xA55A, .mrdHiram 0xFFFE] powerOn = some (.word 0xA55A) ∧
    answer [.mwrHiram 0xFFFE 0xA55A, .mrdRom 0x0000] powerOn = some (.word 0x83E0) := by decide

/-- V-MEM-19: page 0x20 in window 10. -/
theorem test_hiram_mapped : answer [.mwrHiram 0xA000 0x5AA5, .mrdHiram 0xA000] amsMapped = some (.word 0x5AA5) ∧
    (after [.mwrHiram 0xA000 0x5AA5] amsMapped).map (fun t => t.ams.mem) = some [(0x20000, 0x5A), (0x20001, 0xA5)] := by
  decide

/-- V-MEM-06: the scratchpad mirrors. -/
theorem test_pad : answer [.mwrPad 0x8120 0xCAFE, .mrdPad 0x8020] powerOn = some (.word 0xCAFE) ∧
    (after [.mwrPad 0x80FE 0x0102] powerOn).map (fun t => t.decoder.ram) = some [(0x83FE, 1), (0x83FF, 2)] := by decide

/-- V-MEM-14, V-MEM-17: a peripheral ROM and the AMS registers. -/
theorem test_periph_reads :
    answer [.loadDsr 1 [0xAA, 0x01], .cwrDsr 0x880 true, .mrdPeriph 0x4000] powerOn = some (.word 0xAA01) ∧
    answer [.mrdPeriph 0x4004] { amsOn with ams.acc := true } = some (.word 0x0200) := by decide

/-- V-MEM-17, V-MEM-16: a register write, and none with the AMS off. -/
theorem test_periph_writes :
    answer [.mwrPeriph 0x4014 0x2000, .mrdPeriph 0x4034] { amsOn with ams.acc := true } = some (.word 0x2000) ∧
    (after [.cwrDsr 0xF00 true, .mwrPeriph 0x4004 0x2000] powerOn).map (fun t => (t.ams.acc, at16 t.ams.reg 2)) =
      some (true, 0x0002) := by decide

/-- V-MEM-23, V-MEM-27: bank selects. -/
theorem test_cart_banks :
    answer [.mwrCart 0x6002 0, .mrdCart 0x6000] (withCart true false false false) = some (.word 0xB202) ∧
    answer [.mwrCart 0x7FFE 0, .mrdCart 0x7000] (withCart false false false false) = some (.word 0xC303) := by decide

/-- V-MEM-25, V-MEM-26: cartridge RAM. -/
theorem test_cart_ram :
    answer [.mwrCart 0x6000 0x1234, .mrdCart 0x6000] (withCart false true false false) = some (.word 0x1234) ∧
    answer [.mwrCart 0x7000 0x1111, .mwrCart 0x6802 0, .mwrCart 0x7000 0x2222, .mwrCart 0x6800 0, .mrdCart 0x7000]
      (withCart false false true true) = some (.word 0x1111) := by decide

/-- V-MEM-09, V-MEM-10, V-MEM-11, V-MEM-12, V-GROM-15: reads that answer zero. -/
theorem test_silent_reads :
    [Instr.mrdSound 0x85FE, .mrdGap 0x87FE, .mrdVdpWp 0x8C00, .mrdSpchWp 0x9400, .mrdGrWp 0x9C02].all
      (fun i => answer [i] powerOn == some (.word 0) && shown [i] powerOn == some (4, [])) = true := by decide

/-- V-MEM-11, V-MEM-12: the device calls of the read ports. -/
theorem test_device_read_calls :
    shown [.mrdVdpData 0x8800] powerOn = some (4, [.vdpReadData]) ∧
    shown [.mrdVdpStat 0x8BFE] powerOn = some (4, [.vdpReadStatus]) ∧
    shown [.mrdSpch 0x9000] powerOn = some (4, [.speechReadData]) :=
  ⟨rfl, rfl, rfl⟩

/-- The device's byte comes back in D[15:8], whatever byte it is (30_encoding.md R94). -/
theorem test_device_read_lane (s : State) :
    answer [.mrdVdpData 0x8800] s = some (.word (be16 (Config.vdpReadData s.draws) 0)) := rfl

/-- V-MEM-09, V-MEM-11, V-MEM-12, V-MEM-28: the write ports. -/
theorem test_device_write_calls :
    shown [.mwrSound 0x8400 0x9F55] powerOn = some (4, [.soundWriteData 0x9F]) ∧
    shown [.mwrVdpData 0x8C00 0x2000] powerOn = some (4, [.vdpWriteData 0x20]) ∧
    shown [.mwrVdpAddr 0x8FFE 0x8100] powerOn = some (4, [.vdpWriteAddress 0x81]) ∧
    shown [.mwrSpch 0x9400 0x5000] powerOn = some (4, [.speechWriteData 0x50]) := by decide

/-- V-MEM-02, V-MEM-10, V-MEM-11, V-MEM-12, V-MEM-28: discarded writes and their charges. -/
theorem test_discarded_writes :
    [(Instr.mwrRom 0x0000 0x1234, 4), (.mwrGap 0x8600 0xFFFF, 4), (.mwrVdpRp 0x8800 0x1200, 4),
      (.mwrSpchRp 0x9000 0x1234, 4), (.mwrGrRp 0x9800 0, 23)].all
      (fun p => (after [p.1] powerOn).map (fun t => decide (t.toBlock = powerOn.toBlock)) == some true &&
        shown [p.1] powerOn == some (p.2, [])) = true := by decide

/-! ### GROM -/

/-- V-GROM-01, V-GROM-02. -/
theorem test_mrdGrData :
    answer [.mrdGrData 0x9800] powerOn = some (.word 0) ∧
    answer (gsetaddr 0 ++ [.mrdGrData 0x9800, .mrdGrData 0x9800]) powerOn = some (.word 0x0200) := by decide

/-- V-GROM-13: base 1 through port 0x9804. -/
theorem test_mrdGrData_base :
    answer ([.loadGrom 0 0x6000 [0x10], .loadGrom 1 0x6000 [0x11]] ++ gsetaddr 0x6000 ++ [.mrdGrData 0x9804]) powerOn =
      some (.word 0x1100) := by decide

/-- V-GROM-04. -/
theorem test_mrdGrAddr :
    answer (gsetaddr 0x6000 ++ [.mrdGrAddr 0x9802]) powerOn = some (.word 0x6000) ∧
    answer (gsetaddr 0x6000 ++ [.mrdGrAddr 0x9802, .mrdGrAddr 0x9802]) powerOn = some (.word 0x0100) := by decide

/-- V-GROM-03, V-GROM-07. -/
theorem test_mwrGrAddr :
    (after [.mwrGrAddr 0x9C02 0x60FF] powerOn).map (fun t => (t.gsq.gaddr, t.gsq.gphase)) = some (0x0060, .one) ∧
    (after [.mwrGrAddr 0x9C02 0x1200, .mwrGrAddr 0x9C02 0x3400, .mwrGrAddr 0x9C02 0x5600] powerOn).map
      (fun t => t.gsq.gaddr) = some 0x3556 := by decide

/-- V-GROM-09, V-GROM-10. -/
theorem test_mwrGrData :
    answer ([.setGram true] ++ gsetaddr 0x7000 ++ [.mwrGrData 0x9C00 0x4200] ++ gsetaddr 0x7000 ++
      [.mrdGrData 0x9800]) powerOn = some (.word 0x4200) ∧
    (after [.setGram true, .mwrGrData 0x9C00 0x7700] powerOn).map (fun t =>
      (Memory.read (at16 t.gsq.grom 0) 0xFFFF, at16 t.gsq.gpref 0, t.gsq.gaddr)) = some (0x77, 0xAA, 1) := by decide

/-! ### CRU -/

/-- V-CRU-01. -/
theorem test_mode : answer [.crdMode] powerOn = some (.bit false) ∧
    answer [.cwrMode true, .crdMode] powerOn = some (.bit true) := by decide

/-- V-CRU-02: the immediate reload, and what the clock reads as. -/
theorem test_clock :
    (after [.cwrTClk 3 true, .tick 2, .cwrTClk 1 false] timerMode).map (fun t => (t.cru.clk, t.cru.dec)) =
      some (4, 4) ∧
    answer [.cwrTClk 3 true, .crdTClk 3] timerMode = some (.bit true) := by decide

/-- V-CRU-07: the decrementer read instead. -/
theorem test_crdTClk_dec :
    answer [.crdTClk 2] { timerMode with params.timerRead := .dec, cru.clk := 5, cru.dec := 3 } = some (.bit true) := by
  decide

/-- V-CRU-04, V-CRU-05: the reload at 0, and past it. -/
theorem test_tick :
    (after [.tick 1] running).map (fun t => (t.cru.dec, t.cru.tint, t.cru.elapsed)) = some (3, true, 101) ∧
    (after [.tick 10] { powerOn with cru.clk := 3, cru.dec := 3 }).map (fun t => (t.cru.dec, t.cru.tint)) =
      some (3, true) := by decide

/-- V-CRU-11. -/
theorem test_cwrNAck :
    (after [.cwrNAck true] running).map (fun t => (t.cru.tint, cruLine t.cru 3)) = some (false, true) ∧
    (after [.cwrNAck false] running).map (fun t => (t.cru.tint, cruLine t.cru 3)) = some (false, false) := by decide

/-- V-CRU-08: bit 15 does nothing; V-CRU-11: what it reads. -/
theorem test_bit_fifteen :
    (after [.cwrTB15 true] timerMode).map (fun t => decide (t.toBlock = timerMode.toBlock)) = some true ∧
    answer [.crdTInt] running = some (.bit true) := by decide

/-- V-CRU-12. -/
theorem test_vdp_line : answer [.crdNVdp] powerOn = some (.bit true) ∧
    answer [.vdpInt true, .crdNVdp] powerOn = some (.bit false) := by decide

/-- V-CRU-13, V-CRU-14: the calls of the keyboard and tape lines. -/
theorem test_keyboard_and_tape_calls :
    shown [.crdNKbd 5] running = some (0, [.kbdLine 5 2]) ∧ shown [.crdTapeIn] running = some (0, [.tapeLevel 100]) :=
  ⟨rfl, rfl⟩

/-- V-CRU-15, V-CRU-16. -/
theorem test_crdStored :
    answer [.cwrNStore 1 true, .crdStored 1] powerOn = some (.bit true) ∧
    answer [.cwrDsr 0x900 true, .crdStored 0x900] { powerOn with params.unlistedCruRead := .zero } =
      some (.bit false) := by decide

/-- V-CRU-09, V-CRU-15. -/
theorem test_tape_writes :
    shown [.cwrNMotor true] powerOn = some (0, [.tapeMotor true]) ∧
    shown [.cwrNTapeOut false] powerOn = some (0, [.tapeOut false]) := by decide

/-- V-CRU-09, V-CRU-10: leaving timer mode. -/
theorem test_cwrTExit :
    shown [.cwrTExit 22 true] timerMode = some (0, [.tapeMotor true]) ∧
    (after [.cwrTExit 0xF00 true] timerMode).map (fun t => (t.cru.tmode, t.decoder.dsrSel, t.decoder.dsrEn, t.ams.acc)) =
      some (false, 14, true, true) := by decide

/-- V-CRU-17. -/
theorem test_cwrDsr :
    (after [.cwrDsr 0x880 true, .cwrDsr 0x900 false, .cwrDsr 0x881 true, .cwrDsr 0xF02 true] powerOn).map (fun t =>
      (t.decoder.dsrSel, t.decoder.dsrEn, t.ams.acc, t.ams.mode)) = some (1, true, false, false) ∧
    (after [.cwrDsr 0x880 true, .cwrDsr 0x880 false] powerOn).map (fun t => t.decoder.dsrEn) = some false := by decide

/-! ### Reset and host operations -/

/-- 70_reset_and_hazards.md R260: a warm reset keeps the cartridge, and both kinds clear RAM. -/
theorem test_reset :
    (after [.mwrLoram 0x2000 1, .mwrCart 0x6002 0, .reset .warm] (withCart false false false false)).map (fun t =>
      (t.decoder.ram, t.bsc.cartImg.size, t.bsc.romBank)) = some ([], 0x8000, 0) ∧
    (after [.reset .cold] (withCart false false false false)).map (fun t => t.bsc.cartImg) = some ⟨0, []⟩ := by decide

/-- 43_host.md R210: a load of four bytes across the end of the address space, the two in ROM ignored. -/
theorem test_loadRam :
    (after [.loadRam 0xFFFE [1, 2, 3, 4]] powerOn).map (fun t => (t.decoder.ram, t.reply.value)) =
      some ([(0xFFFE, 1), (0xFFFF, 2)], .ok) ∧
    (after [.loadRam 0 []] powerOn).map (fun t => t.reply.error) = some (some .eEmpty) := by decide

/-- 43_host.md R211: the offset wraps, and base 1 becomes populated. -/
theorem test_loadGrom :
    (after [.loadGrom 1 0xFFFF [7, 8]] powerOn).map (fun t => (at16 t.gsq.grom 1, gmulti t.gsq)) =
      some ([(0, 8), (0xFFFF, 7)], true) ∧
    (after [.loadGrom 0 0 []] powerOn).map (fun t => t.reply.error) = some (some .eEmpty) := by decide

/-- 43_host.md R212. -/
theorem test_loadCart :
    (after [.loadCart [0xAB] false false false false] powerOn).map (fun t => (t.bsc.cartImg.size, cartBanks t.bsc)) =
      some (0x2000, 1) ∧
    (after [.loadCart [] false false false false] powerOn).map (fun t => t.reply.error) = some (some .eEmpty) := by decide

/-- 43_host.md R213, with R240. -/
theorem test_loadDsr : (after [.loadDsr 15 []] powerOn).map (fun t => t.reply.error) = some (some .eEmpty) := by decide

/-- 43_host.md R215 to R217. -/
theorem test_settings :
    (after [.setRam32k false, .setAms true, .setGram true] powerOn).map (fun t =>
      (t.decoder.ram32kEn, t.decoder.amsEn, t.decoder.gramEn)) = some (false, true, true) := by decide

/-- 43_host.md R219: the snapshot of one state restored over another, and one with nothing in it turned away. -/
theorem test_restoreState :
    (after [.restoreState (takeSnapshot running.params running.toBlock)] powerOn).map (fun t =>
      (t.cru.elapsed, t.cru.clk, t.cru.bits, t.reply.value)) = some (100, 3, [2, 3, 18, 20], .ok) ∧
    (after [.restoreState .absent] powerOn).map (fun t => t.reply.error) = some (some .eSnapshot) := by decide

/-- 10_state.md R23: a snapshot with another console ROM is turned away, and ROM stays (log 15). -/
theorem test_restoreState_foreign_rom :
    (after [.restoreState (takeSnapshot State.reset.params State.reset.toBlock)] powerOn).map (fun t =>
      (t.reply.error, decide (t.toBlock = powerOn.toBlock))) = some (some .eSnapshot, true) := by decide

/-- 43_host.md R218. -/
theorem test_getState :
    answer [.getState] powerOn = some (.snapshot (takeSnapshot powerOn.params powerOn.toBlock)) := rfl

/-- 43_host.md R221, R222. -/
theorem test_debug_reads :
    answer [.dbgRdw 0x0001] powerOn = some (.word 0x83E0) ∧ answer [.dbgRdb 0x0001] powerOn = some (.byte 0xE0) ∧
    answer [.dbgRdw 0x8800] powerOn = some (.word 0) := by decide

/-- 43_host.md R225: STATUS charges and calls nothing. -/
theorem test_status : shown [.status] powerOn = some (0, []) := rfl

/-! ### The step -/

/-- The host's placed transaction is the one the next step performs, in the mode its K[12] spells. -/
theorem test_withFetchWord :
    step (State.withFetchWord State.reset 24 0x31010) = exec (.cwrTExit 16 false) { State.reset with cru.tmode := true } ∧
    step (State.withFetchWord State.reset 24 0x06002) = exec (.mrdCart 0x6002) State.reset := ⟨rfl, rfl⟩

/-- V-CRU-01: K[12] is TMODE, whatever the caller wrote. -/
theorem test_step_mode :
    step { timerMode with pending := [Txn.ofKey 0x20003] } = exec (.crdTClk 3) timerMode ∧
    step { powerOn with pending := [Txn.ofKey 0x21003] } = exec (.crdNKbd 3) powerOn := ⟨rfl, rfl⟩

/-- 60_exceptions.md R242. -/
theorem test_step_refuses :
    step { powerOn with pending := [Txn.ofKey 0x4F000] } = .refused (.unusedSidebandId 15) ∧
    step { powerOn with pending := [{ Txn.ofKey 0x42000 with words := [2] }] } =
      .refused (.operandOutOfType "RESET") := ⟨rfl, rfl⟩

/-! ### Every statement's hypotheses are met: one witness each, at the boundaries of its clauses -/

/-- A key spelled with no operand beside it. -/
def keyed (k : Nat) : Txn := Txn.ofKey (BitVec.ofNat 19 k)

/-- The lowest and highest keys of a row meet its mask and match. -/
def meets (mask pattern lo hi : Nat) : Bool :=
  (keyed lo).key.toNat &&& mask == pattern && (keyed hi).key.toNat &&& mask == pattern

/-- The lowest and highest keys of a CRU row meet its op, mode and bits. -/
def meetsCru (op : Nat) (mode : Bool) (lo hi : Nat) : Bool :=
  [lo, hi].all fun b =>
    let t := keyed (op * 0x10000 + bitNat mode * 0x1000 + b)
    t.key.toNat / 0x10000 == op && t.key.getLsbD 12 == mode && decide (lo ≤ t.cruBit.toNat ∧ t.cruBit.toNat ≤ hi)

/-- The state a test puts one transaction in. -/
def issuing (t : Txn) (s : State) : State := { s with pending := [t] }

theorem witness_DecodeOfEncode :
    [Instr.mrdRom 0x1FFE, .mrdHiram 0xFFFE, .mwrCart 0x7FFE 0xFFFF, .mwrGrAddr 0x9FFE 0xFFFF, .crdTClk 14, .crdNKbd 10,
      .crdStored 0xFFF, .crdStored 1, .cwrTExit 0xFFF true, .cwrNStore 0x7FF true, .tick 0, .loadRam 0xFFFF [0xFF],
      .loadGrom 15 0xFFFF [], .restoreState .absent, .status].all Instr.wf = true := by decide

theorem witness_MemoryKeyRows :
    (keyed 0x00000).key.toNat / 0x10000 = 0 ∧ (keyed 0x0FFFF).key.toNat / 0x10000 = 0 ∧
    (keyed 0x10000).key.toNat / 0x10000 = 1 ∧ (keyed 0x1FFFF).key.toNat / 0x10000 = 1 := by decide

theorem witness_CruKeyRows :
    (keyed 0x20000).key.toNat / 0x10000 = 2 ∧ (keyed 0x2FFFF).key.toNat / 0x10000 = 2 ∧
    (keyed 0x30000).key.toNat / 0x10000 = 3 ∧ (keyed 0x3FFFF).key.toNat / 0x10000 = 3 := by decide

/-- Each id with operands at the ends of their types. -/
theorem witness_SidebandKeyRows :
    ((List.range 64).all fun id => (keyed (0x40000 + id * 0x1000)).key.toNat == 0x40000 + id * 0x1000) = true ∧
    ({ keyed 0x41000 with words := [1] } : Txn).scalar 0 = true.toNat ∧
    ({ keyed 0x42000 with words := [1] } : Txn).scalar 0 = 1 ∧ (keyed 0x42000).scalar 0 = 0 ∧
    ({ keyed 0x43000 with words := [0xFFFF] } : Txn).scalar 0 = (0xFFFF : Word).toNat ∧
    ({ keyed 0x43000 with bytes := [0, 255] } : Txn).bytes = [(0 : Byte), 255].map BitVec.toNat ∧
    ({ keyed 0x44000 with words := [15, 0xFFFF] } : Txn).scalar 0 = (15 : BitVec 4).toNat ∧
    ({ keyed 0x44000 with words := [15, 0xFFFF] } : Txn).scalar 1 = (0xFFFF : Word).toNat ∧
    ({ keyed 0x45000 with words := [1, 0, 1, 1] } : Txn).scalar 3 = true.toNat ∧
    ({ keyed 0x45000 with words := [1, 0, 1, 1] } : Txn).scalar 1 = false.toNat := by decide

theorem witness_OddAddressActsAsEven : (keyed 0x00001).key.toNat < 0x20000 ∧ (keyed 0x1FFFF).key.toNat < 0x20000 := by
  decide

/-- A memory key, a CRU key in the other mode than the caller spelled, and a sideband key. -/
theorem witness_StepRunsDecoded :
    (issuing (keyed 0x06003) powerOn).pending = [keyed 0x06003] ∧ decode (keyed 0x06003) = .ok (.mrdCart 0x6002) ∧
    (Instr.mrdCart 0x6002).wf = true ∧
    decode { keyed 0x20003 with key := (keyed 0x20003).key ||| 0x01000 } = .ok (.crdTClk 3) ∧ timerMode.cru.tmode = true ∧
    decode { keyed 0x3F003 with key := (keyed 0x3F003).key &&& 0x7EFFF } = .ok (.cwrNAck false) ∧
    powerOn.cru.tmode = false ∧ decode (keyed 0x4E000) = .ok .status :=
  ⟨rfl, by decide, by decide, by decide, rfl, by decide, rfl, by decide⟩

/-- Operands just outside their types are refused, and the same at the ends of their types go on. -/
theorem witness_RefusesExactlyTheMeaningless :
    ([(15, [], []), (63, [], []), (1, [2], []), (2, [2], []), (7, [2], []), (8, [2], []), (9, [2], []), (3, [0x10000], []),
      (12, [0x10000], []), (13, [0x10000], []), (4, [16], []), (6, [16], []), (4, [0, 0x10000], []), (5, [2], []),
      (5, [0, 2], []), (5, [0, 0, 2], []), (5, [0, 0, 0, 2], []), (3, [0], [256]), (4, [0], [256]), (5, [0], [256]),
      (6, [0], [256])].all fun p =>
      match step (issuing { keyed (0x40000 + p.1 * 0x1000) with words := p.2.1, bytes := p.2.2 } powerOn) with
      | .refused _ => true
      | .next _ => false) = true ∧
    ([(0, [99999], []), (1, [1], []), (2, [1], []), (3, [0xFFFF], [255]), (4, [15, 0xFFFF], []), (6, [15], [255]),
      (9, [1], []), (13, [0xFFFF], [])].all fun p =>
      match step (issuing { keyed (0x40000 + p.1 * 0x1000) with words := p.2.1, bytes := p.2.2 } powerOn) with
      | .refused _ => false
      | .next _ => true) = true := by decide

theorem witness_BusNeverFaults :
    (issuing (keyed 0x3FFFF) powerOn).pending = [keyed 0x3FFFF] ∧ (keyed 0x3FFFF).key.toNat < 0x40000 ∧
    (keyed 0x40FFF).key.toNat / 0x1000 = 0x40 ∧
    (({ keyed 0x41000 with words := [1] } : Txn).key.toNat / 0x1000 = 0x41 ∧
      ({ keyed 0x41000 with words := [1] } : Txn).scalar 0 < 2) := ⟨rfl, by decide, by decide, by decide⟩

theorem witness_RomAndPadReads :
    meets 0x7E000 0x00000 0x00000 0x01FFF = true ∧ meets 0x7FC00 0x08000 0x08000 0x083FF = true ∧
    (0x1FFF : Word).toNat < 0x2000 ∧ 0x8000 ≤ (0x8000 : Word).toNat ∧
    (0x8000 ≤ (0x83FF : Word).toNat ∧ (0x83FF : Word).toNat < 0x8400) := by decide

theorem witness_RamReads :
    meets 0x7E000 0x02000 0x02000 0x03FFF = true ∧
    (meets 0x78000 0x08000 0x0A000 0x0FFFF = true ∧ 0xA000 ≤ (keyed 0x0A000).addr.toNat) ∧
    (0x2000 ≤ (0x3FFF : Word).toNat ∧ (0x3FFF : Word).toNat < 0x4000) ∧ 0xA000 ≤ (0xFFFF : Word).toNat := by decide

theorem witness_PeriphReads :
    meets 0x7E000 0x04000 0x04000 0x05FFF = true ∧ 0x4000 ≤ (0x4000 : Word).toNat ∧ (0x5FFF : Word).toNat < 0x6000 := by
  decide

/-- One half of each seat: a ROM-seated low half at its first address, a paged RAM-seated upper half at its last. -/
theorem witness_CartReads :
    meets 0x7E000 0x06000 0x06000 0x07FFF = true ∧ 0x6000 ≤ (0x6000 : Word).toNat ∧ (0x7FFF : Word).toNat < 0x8000 ∧
    (withCart false false true true).bsc.cartRam6 = false ∧ (withCart false false true true).bsc.cartRam7 = true := by
  decide

theorem witness_SilentReads :
    (meets 0x7FE00 0x08400 0x08400 0x085FF && meets 0x7FE00 0x08600 0x08600 0x087FF &&
      meets 0x7FC00 0x08C00 0x08C00 0x08FFF && meets 0x7FC00 0x09400 0x09400 0x097FF &&
      meets 0x7FC00 0x09C00 0x09C00 0x09FFF) = true ∧
    [Instr.mrdSound 0x8400, .mrdGap 0x87FE, .mrdVdpWp 0x8C00, .mrdSpchWp 0x97FE, .mrdGrWp 0x9FFE].all Instr.wf = true := by
  decide

theorem witness_DeviceReads :
    (meets 0x7FC02 0x08800 0x08800 0x08BFD && meets 0x7FC02 0x08802 0x08802 0x08BFF &&
      meets 0x7FC00 0x09000 0x09000 0x093FF) = true ∧
    [Instr.mrdVdpData 0x8BFC, .mrdVdpStat 0x8802, .mrdSpch 0x93FE].all Instr.wf = true := by decide

theorem witness_DiscardedWrites :
    (meets 0x7E000 0x10000 0x10000 0x11FFF && meets 0x7FE00 0x18600 0x18600 0x187FF &&
      meets 0x7FC00 0x18800 0x18800 0x18BFF && meets 0x7FC00 0x19000 0x19000 0x193FF &&
      meets 0x7FC00 0x19800 0x19800 0x19BFF) = true ∧
    [Instr.mwrRom 0x1FFE 1, .mwrGap 0x8600 1, .mwrVdpRp 0x8BFE 1, .mwrSpchRp 0x9000 1, .mwrGrRp 0x9BFE 1].all Instr.wf =
      true := by decide

theorem witness_DeviceWrites :
    (meets 0x7FE00 0x18400 0x18400 0x185FF && meets 0x7FC02 0x18C00 0x18C00 0x18FFD &&
      meets 0x7FC02 0x18C02 0x18C02 0x18FFF && meets 0x7FC00 0x19400 0x19400 0x197FF) = true ∧
    [Instr.mwrSound 0x85FE 1, .mwrVdpData 0x8FFC 1, .mwrVdpAddr 0x8C02 1, .mwrSpch 0x97FE 1].all Instr.wf = true := by
  decide

/-- Each of the three routings, at the ends of both regions. -/
theorem witness_RamWrites :
    (meets 0x7E000 0x12000 0x12000 0x13FFF && meets 0x78000 0x18000 0x1A000 0x1FFFF) = true ∧
    0xA000 ≤ (keyed 0x1A000).addr.toNat ∧ (0x2000 ≤ (0x2000 : Word).toNat ∧ (0x3FFF : Word).toNat < 0x4000) ∧
    amsOn.decoder.amsEn = true ∧ (powerOn.decoder.amsEn = false ∧ powerOn.decoder.ram32kEn = true) ∧
    (after [.setRam32k false] powerOn).map (fun t => (t.decoder.amsEn, t.decoder.ram32kEn)) = some (false, false) := by
  decide

theorem witness_PadWrites :
    meets 0x7FC00 0x18000 0x18000 0x183FF = true ∧ 0x8000 ≤ (0x8000 : Word).toNat ∧ (0x83FF : Word).toNat < 0x8400 := by
  decide

theorem witness_PeriphWrites :
    meets 0x7E000 0x14000 0x14000 0x15FFF = true ∧ (0x4000 ≤ (0x4000 : Word).toNat ∧ (0x5FFF : Word).toNat < 0x6000) ∧
    (amsMapped.decoder.amsEn = true ∧ amsMapped.ams.acc = true) ∧
    ¬ (amsOn.decoder.amsEn = true ∧ amsOn.ams.acc = true) := by decide

/-- A RAM-seated upper half, and a ROM-seated lower one of the same cartridge, on either side of 0x7000. -/
theorem witness_CartWrites :
    meets 0x7E000 0x16000 0x16000 0x17FFF = true ∧
    (0x7000 ≤ 0x7000 ∧ (withCart false false true true).bsc.cartRam7 = true) ∧
    ¬ ((0x6FFE < 0x7000 ∧ (withCart false false true true).bsc.cartRam6 = true) ∨
      (0x7000 ≤ 0x6FFE ∧ (withCart false false true true).bsc.cartRam7 = true)) := by decide

theorem witness_GromDataReads :
    meets 0x7FC02 0x09800 0x09800 0x09BFD = true ∧ (Instr.mrdGrData 0x9BFC).wf = true := by decide

theorem witness_GromAddressReads :
    meets 0x7FC02 0x09802 0x09802 0x09BFF = true ∧ (Instr.mrdGrAddr 0x9BFE).wf = true := by decide

theorem witness_GromDataWrites :
    meets 0x7FC02 0x19C00 0x19C00 0x19FFD = true ∧ (Instr.mwrGrData 0x9FFC 0xFFFF).wf = true ∧
    powerOn.decoder.gramEn = false ∧ ({ powerOn with decoder.gramEn := true } : State).decoder.gramEn = true := by decide

theorem witness_GromAddressWrites :
    meets 0x7FC02 0x19C02 0x19C02 0x19FFF = true ∧ (Instr.mwrGrAddr 0x9FFE 0xFFFF).wf = true ∧
    powerOn.gsq.gphase = .two ∧ ({ powerOn with gsq.gphase := .one } : State).gsq.gphase = .one := by decide

theorem witness_FlagAndLineReads :
    (meetsCru 2 false 0 0 && meetsCru 2 true 0 0 && meetsCru 2 true 15 15 && meetsCru 2 false 2 2 &&
      meetsCru 2 false 3 10 && meetsCru 2 false 27 27 && meetsCru 2 true 27 27) = true ∧
    ((Instr.crdNKbd 3).wf = true ∧ (0 : BitVec 3).toNat = (3 : CruBit).toNat - 3) ∧
    ((Instr.crdNKbd 10).wf = true ∧ (7 : BitVec 3).toNat = (10 : CruBit).toNat - 3) ∧
    ∀ j : Nat, j < 3 → (5 : BitVec 3).getLsbD j = CruLines.read running.cru.bits (18 + j) := by decide

theorem witness_TimerBitReads :
    meetsCru 2 true 1 14 = true ∧ (Instr.crdTClk 1).wf = true ∧ (Instr.crdTClk 14).wf = true ∧
    powerOn.params.timerRead = .clock ∧
    ([TimerRead.dec, .draw].map fun r => ({ powerOn with params.timerRead := r } : State).params.timerRead) =
      [.dec, .draw] := by decide

theorem witness_StoredBitReads :
    (meetsCru 2 false 1 1 && meetsCru 2 false 11 15 && meetsCru 2 false 16 26 && meetsCru 2 true 16 26 &&
      meetsCru 2 false 28 4095 && meetsCru 2 true 28 4095) = true ∧
    [Instr.crdStored 1, .crdStored 11, .crdStored 26, .crdStored 28, .crdStored 4095].all Instr.wf = true ∧
    powerOn.params.unlistedCruRead = .stored ∧
    ([UnlistedCruRead.zero, .draw].map fun r =>
      ({ powerOn with params.unlistedCruRead := r } : State).params.unlistedCruRead) = [.zero, .draw] := by decide

theorem witness_ModeAndClockWrites :
    (meetsCru 3 false 0 0 && meetsCru 3 true 0 0 && meetsCru 3 true 15 15 && meetsCru 3 true 1 14) = true ∧
    (Instr.cwrTClk 1 true).wf = true ∧ (Instr.cwrTClk 14 false).wf = true := by decide

theorem witness_TimerExitWrites :
    meetsCru 3 true 16 4095 = true ∧ (Instr.cwrTExit 16 true).wf = true ∧ (Instr.cwrTExit 4095 false).wf = true := by
  decide

theorem witness_StoredBitWrites :
    (meetsCru 3 false 3 3 && meetsCru 3 false 22 22 && meetsCru 3 false 25 25 && meetsCru 3 false 1 2 &&
      meetsCru 3 false 4 21 && meetsCru 3 false 23 24 && meetsCru 3 false 26 2047) = true ∧
    (Instr.cwrNStore 1 true).wf = true ∧ (Instr.cwrNStore 2047 true).wf = true ∧
    ∃ wrote : CruLines → Nat → Prop, ∀ L n, wrote L n ↔
      ∀ j, CruLines.read L j = if j = n then true else CruLines.read powerOn.cru.bits j :=
  ⟨by decide, by decide, by decide, _, fun _ _ => Iff.rfl⟩

theorem witness_DsrSpaceWrites :
    meetsCru 3 false 0x800 0xFFF = true ∧ (Instr.cwrDsr 0x800 true).wf = true ∧ (Instr.cwrDsr 0xFFF false).wf = true := by
  decide

theorem witness_ConstructionState :
    (List.replicate 0x2000 (0 : Byte)).length ≤ 0x2000 ∧ (List.replicate 0x6000 (0 : Byte)).length ≤ 0x6000 := by
  simp only [List.length_replicate]; decide

theorem witness_LoadRamStores : ([0x12] : List Byte) ≠ [] ∧ loadTarget powerOn 0xFFFF = some (.ram 0xFFFF) := by decide

theorem witness_LoadGromStores : ([0x12] : List Byte) ≠ [] ∧ ((0xFFFF : Word).toNat + 1) % 0x10000 = 0 := by decide

theorem witness_ImageLoads : ([0x12] : List Byte) ≠ [] ∧ (1 : BitVec 4) ≠ 15 := by decide

/-- Each loader without bytes, and a snapshot with nothing in it. -/
theorem witness_HostErrorsChangeNothing :
    snapshotWellFormed powerOn.params powerOn.decoder.rom .absent = false ∧
    (∃ u, exec (.loadGrom 0 0 []) powerOn = .next u ∧ u.reply.error = some .eEmpty) ∧
    ∃ u, exec (.restoreState .absent) powerOn = .next u ∧ u.reply.error = some .eSnapshot :=
  ⟨by decide, ⟨_, rfl, rfl⟩, ⟨_, rfl, rfl⟩⟩

/-- The block of the running state meets the invariant. -/
theorem running_inv : running.Inv where
  params := by decide
  block :=
    { rom := by decide, ram := by decide, dsrImg := by decide, cartImg := by decide, cartRam := by decide,
      romBank := by decide, ramBank := by decide, amsMem := by decide, grom := by decide, gpop := by decide,
      bits := by decide, dec := by decide }

theorem witness_SnapshotRoundTrip :
    running.Inv ∧
    (∃ t, exec .getState running = .next t ∧
      t.reply.value = .snapshot (takeSnapshot running.params running.toBlock)) ∧
    powerOn.params = running.params ∧ powerOn.decoder.rom = running.decoder.rom :=
  ⟨running_inv, ⟨_, rfl, rfl⟩, rfl, rfl⟩

theorem witness_DebugReads :
    (decode (keyed (evenAddr 0x7FFF).toNat) = .ok (.mrdCart 0x7FFE) ∧
      Instr.mrdCart 0x7FFE ∈ [Instr.mrdRom 0x7FFE, .mrdLoram 0x7FFE, .mrdHiram 0x7FFE, .mrdPeriph 0x7FFE,
        .mrdCart 0x7FFE, .mrdPad 0x7FFE]) ∧
    region (evenAddr 0x8400) ∈ [Region.sound, .gap, .vdp, .speech, .grom] ∧
    region (evenAddr 0x9FFF) ∈ [Region.sound, .gap, .vdp, .speech, .grom] := by decide

/-- A state that differs from another in much, but in none of the six elements. -/
theorem witness_StatusText :
    running ≠ powerOn ∧ running.gsq.gaddr = powerOn.gsq.gaddr ∧ running.bsc.romBank = powerOn.bsc.romBank ∧
    running.bsc.ramBank = powerOn.bsc.ramBank ∧ running.ams = powerOn.ams := by decide

/-- A refused transaction does not meet the premise; a pending TICK and an empty queue do. -/
theorem witness_StepKeepsInvariant :
    (issuing (keyed 0x40000) running).Inv ∧ (∃ t, step (issuing (keyed 0x40000) running) = .next t) ∧
    ∃ t, step running = .next t :=
  ⟨⟨running_inv.params, running_inv.block⟩, ⟨_, rfl⟩, ⟨_, rfl⟩⟩

/-- Either end of the GROM range, and the address just below it. -/
theorem witness_WaitStateCharges :
    [Instr.mwrSpch 0x97FE 0, .mwrGrRp 0x9800 0, .mwrGrAddr 0x9FFE 0, .mwrHiram 0xA000 0].map (fun i =>
      (i.wf, isTimedWrite i, timedAddr i)) =
      [(true, true, 0x97FE), (true, true, 0x9800), (true, true, 0x9FFE), (true, true, 0xA000)] ∧
    isTimedRead (.mrdGrData 0x9800) = true ∧ isTimedRead .crdMode = false := by decide

/-- Both tables, an address of a window that translates at the end of the space, and one that does not. -/
theorem witness_AmsTranslation :
    amsMapped.ams.mode = true ∧ amsOn.ams.mode = false ∧ Params.wf powerOn.params ∧
    amsPhys powerOn.params amsOn.ams 0xFFFE = some 0xFFFE ∧ (0xFFFE : Word).toNat % 2 = 0 ∧
    amsPhys powerOn.params amsOn.ams 0x1FFF = none ∧ amsPhys powerOn.params amsMapped.ams 0xA000 = some 0x20000 := by
  decide

/-- A transaction that none of the exceptions names. -/
theorem witness_ControlStateWriters :
    (∃ t, exec .status amsMapped = .next t) ∧
    ((∃ t, exec (.mwrPeriph 0x4000 0) amsOn = .next t) ∧ amsOn.ams.acc = false) ∧
    (∀ a d, Instr.status ≠ .mwrCart a d) ∧ Instr.status ≠ .reset .cold ∧
    Instr.reset .warm ≠ .reset .cold :=
  ⟨⟨_, rfl⟩, ⟨⟨_, rfl⟩, rfl⟩, fun _ _ h => Instr.noConfusion h, by decide, by decide⟩

theorem witness_SequencerAndTimerWriters :
    (∃ t, exec .status running = .next t) ∧ running.cru.tint = true ∧
    ((∃ t, exec (.mwrGrData 0x9C00 0) powerOn = .next t) ∧ powerOn.decoder.gramEn = false) ∧
    (∀ v, Instr.status ≠ .cwrNAck v) :=
  ⟨⟨_, rfl⟩, rfl, ⟨⟨_, rfl⟩, rfl⟩, fun _ h => Instr.noConfusion h⟩

/-- Each line rises and drops. -/
theorem witness_InterruptLineCauses :
    (after [.tick 1] { running with cru.tint := false }).map (fun t => intTimer t.cru) = some true ∧
    (intTimer running.cru = true ∧ (after [.cwrNAck true] running).map (fun t => intTimer t.cru) = some false) ∧
    (intVdp running.cru = true ∧ (after [.cwrNStore 2 false] running).map (fun t => intVdp t.cru) = some false) ∧
    ((after [.vdpInt true] { running with cru.vint := false }).map (fun t => intVdp t.cru) = some true ∧
      (Instr.vdpInt true).wf = true) := by decide

theorem witness_GromAddressThenReads :
    powerOn.gsq.gphase = .two ∧ (∀ p ∈ [(0x9800 : Word), 0x9BFC], (Instr.mrdGrData p).wf = true) :=
  ⟨by decide, by intro p hp; fin_cases hp <;> decide⟩

theorem witness_GramWriteThenRead :
    powerOn.gsq.gphase = .two ∧ ({ powerOn with decoder.gramEn := true } : State).decoder.gramEn = true ∧
    (Instr.mwrGrData 0x9FFC 0x4200).wf = true ∧ (Instr.mrdGrData 0x9BFC).wf = true ∧
    (0x9FFC : Word).toNat / 4 % 16 = (0x9BFC : Word).toNat / 4 % 16 := by decide

/-- The shortest period, and a longer one; a tick past the end of it. -/
theorem witness_TimerPeriod :
    ({ powerOn with cru.clk := 1, cru.dec := 1 } : State).cru.dec = (1 : Nat) ∧ 0 < 1 ∧
    ({ powerOn with cru.clk := 0x3FFF, cru.dec := 0x3FFF } : State).cru.clk.toNat = 0x3FFF ∧
    ({ powerOn with cru.clk := 0x3FFF, cru.dec := 0x3FFF } : State).cru.dec < (0x4000 : Nat) := by decide

theorem witness_ReadAfterWrite :
    ((Instr.mwrLoram 0x3FFE 1).wf = true ∧ powerOn.decoder.ram32kEn = true) ∧
    ((Instr.mwrHiram 0xFFFE 1).wf = true ∧ amsMapped.decoder.amsEn = true) ∧
    ((Instr.mwrPad 0x80FE 1).wf = true ∧ (Instr.mrdPad 0x83FE).wf = true ∧
      (0x80FE : Word).toNat % 0x100 = (0x83FE : Word).toNat % 0x100) := by decide

theorem witness_SettingsWrites_and_TickAndVdpInt :
    (∃ r : Reply, r = ⟨.nothing, 0, [], none⟩) ∧ (∃ e : Nat, e = running.cru.elapsed + 1) ∧
    ∃ d : Int, d = running.cru.dec - 1 := ⟨⟨_, rfl⟩, ⟨_, rfl⟩, ⟨_, rfl⟩⟩

/-- The clause that carries a premise, at both ends. -/
theorem witness_TimerSetLoadsClock : (1 : BitVec 14) ≠ 0 ∧ (0x3FFF : BitVec 14) ≠ 0 := by decide

end Sys2Proof.Tests
end

section
/-! The even addressing of the bus (20_memory.md R61): the decoder sees a memory key only with A0 forced to 0, every
memory key decodes, and so a memory transaction is one exec of an instruction that A0 has no part in. -/

namespace Sys2Proof.Machine

/-! ### Forcing A0 to 0 -/

/-- The mask R61 writes is the decoder's own A0 = 0. -/
theorem and_evenMask_eq_forceEven {k : Key} (h : k.toNat < 0x20000) : k &&& 0x7FFFE = Key.forceEven k := by
  have mask : k.toNat &&& 0x7FFFE = k.toNat / 2 % 0x40000 * 2 := and_block k.toNat 1 18
  apply BitVec.eq_of_toNat_eq
  rw [forceEven_toNat, if_pos (by omega), BitVec.toNat_and]
  show k.toNat &&& 0x7FFFE = _
  omega

theorem forceEven_forceEven (k : Key) : Key.forceEven (Key.forceEven k) = Key.forceEven k := by
  have once := forceEven_toNat k
  apply BitVec.eq_of_toNat_eq
  rw [forceEven_toNat (Key.forceEven k)]
  split at once <;> split <;> omega

theorem forceEven_id_field (k : Key) : (Key.forceEven k).toNat / 0x1000 = k.toNat / 0x1000 := by
  rw [forceEven_toNat]
  split <;> omega

theorem decode_forceEven (t : Txn) : decode { t with key := Key.forceEven t.key } = decode t := by
  simp only [decode, forceEven_forceEven, forceEven_id_field]

/-! ### Every memory key decodes -/

/-- The sixteen read rows of R97 leave no address out. -/
theorem decode_memRead_ok {t : Txn} (h : t.key.toNat < 0x10000) : ∃ i, decode t = .ok i := by
  have cover : t.key.toNat / 0x2000 = 0 ∨ t.key.toNat / 0x2000 = 1 ∨ t.key.toNat / 0x2000 = 2 ∨
      t.key.toNat / 0x2000 = 3 ∨ t.key.toNat / 0x400 = 0x20 ∨ t.key.toNat / 0x200 = 0x42 ∨
      t.key.toNat / 0x200 = 0x43 ∨ t.key.toNat / 0x400 = 0x22 ∨ t.key.toNat / 0x400 = 0x23 ∨
      t.key.toNat / 0x400 = 0x24 ∨ t.key.toNat / 0x400 = 0x25 ∨ t.key.toNat / 0x400 = 0x26 ∨
      t.key.toNat / 0x400 = 0x27 ∨ 0xA000 ≤ t.key.toNat := by omega
  have port := Nat.mod_two_eq_zero_or_one (t.key.toNat / 2)
  obtain rom | loram | periph | cart | pad | sound | gap | vdp | vdpWp | spch | spchWp | grom | gromWp | hiram := cover
  · exact ⟨_, decode_mrdRom rom⟩
  · exact ⟨_, decode_mrdLoram loram⟩
  · exact ⟨_, decode_mrdPeriph periph⟩
  · exact ⟨_, decode_mrdCart cart⟩
  · exact ⟨_, decode_mrdPad pad⟩
  · exact ⟨_, decode_mrdSound sound⟩
  · exact ⟨_, decode_mrdGap gap⟩
  · exact port.elim (fun data => ⟨_, decode_mrdVdpData vdp data⟩) (fun stat => ⟨_, decode_mrdVdpStat vdp stat⟩)
  · exact ⟨_, decode_mrdVdpWp vdpWp⟩
  · exact ⟨_, decode_mrdSpch spch⟩
  · exact ⟨_, decode_mrdSpchWp spchWp⟩
  · exact port.elim (fun data => ⟨_, decode_mrdGrData grom data⟩) (fun addr => ⟨_, decode_mrdGrAddr grom addr⟩)
  · exact ⟨_, decode_mrdGrWp gromWp⟩
  · exact ⟨_, decode_mrdHiram hiram h⟩

/-- The sixteen write rows of R97 leave no address out. -/
theorem decode_memWrite_ok {t : Txn} (h : t.key.toNat / 0x10000 = 1) : ∃ i, decode t = .ok i := by
  have cover : t.key.toNat / 0x2000 = 8 ∨ t.key.toNat / 0x2000 = 9 ∨ t.key.toNat / 0x2000 = 10 ∨
      t.key.toNat / 0x2000 = 11 ∨ t.key.toNat / 0x400 = 0x60 ∨ t.key.toNat / 0x200 = 0xC2 ∨
      t.key.toNat / 0x200 = 0xC3 ∨ t.key.toNat / 0x400 = 0x62 ∨ t.key.toNat / 0x400 = 0x63 ∨
      t.key.toNat / 0x400 = 0x64 ∨ t.key.toNat / 0x400 = 0x65 ∨ t.key.toNat / 0x400 = 0x66 ∨
      t.key.toNat / 0x400 = 0x67 ∨ 0x1A000 ≤ t.key.toNat := by omega
  have port := Nat.mod_two_eq_zero_or_one (t.key.toNat / 2)
  obtain rom | loram | periph | cart | pad | sound | gap | vdpRp | vdp | spchRp | spch | gromRp | grom | hiram := cover
  · exact ⟨_, decode_mwrRom rom⟩
  · exact ⟨_, decode_mwrLoram loram⟩
  · exact ⟨_, decode_mwrPeriph periph⟩
  · exact ⟨_, decode_mwrCart cart⟩
  · exact ⟨_, decode_mwrPad pad⟩
  · exact ⟨_, decode_mwrSound sound⟩
  · exact ⟨_, decode_mwrGap gap⟩
  · exact ⟨_, decode_mwrVdpRp vdpRp⟩
  · exact port.elim (fun data => ⟨_, decode_mwrVdpData vdp data⟩) (fun addr => ⟨_, decode_mwrVdpAddr vdp addr⟩)
  · exact ⟨_, decode_mwrSpchRp spchRp⟩
  · exact ⟨_, decode_mwrSpch spch⟩
  · exact ⟨_, decode_mwrGrRp gromRp⟩
  · exact port.elim (fun data => ⟨_, decode_mwrGrData grom data⟩) (fun addr => ⟨_, decode_mwrGrAddr grom addr⟩)
  · exact ⟨_, decode_mwrHiram hiram (by omega)⟩

theorem decode_mem_ok {t : Txn} (h : t.key.toNat < 0x20000) : ∃ i, decode t = .ok i := by
  by_cases read : t.key.toNat < 0x10000
  · exact decode_memRead_ok read
  · exact decode_memWrite_ok (by omega)

/-! ### A memory transaction as one step -/

/-- A memory key is issued as it stands, in either mode, so the step is exec of what it decodes to. -/
theorem step_mem {t : Txn} {i : Instr} (h : t.key.toNat < 0x20000) (hi : decode t = .ok i) (s : State)
    (rest : List Txn) : step { s with pending := t :: rest } = exec i { s with pending := rest } := by
  rw [step_pending rfl, issue_of_not_cru (by omega), perform_ok hi]

/-- Settles O6: both transactions decode to one instruction, and exec of any instruction answers a next state. -/
theorem oddAddressActsAsEven : Obligations.OddAddressActsAsEven := by
  intro s t rest h
  obtain ⟨i, hi⟩ := decode_mem_ok h
  have even_lt : (Key.forceEven t.key).toNat < 0x20000 := by
    rw [forceEven_toNat, if_pos (by omega)]
    omega
  rw [and_evenMask_eq_forceEven h, step_mem h hi, step_mem even_lt ((decode_forceEven t).trans hi)]
  exact ⟨rfl, exec_completes i _⟩

end Sys2Proof.Machine
end

section
/-! The rows of the bus keys (30_encoding.md R97, R98), read off the row laws: the regions of 20_memory.md R64, the port
bits A10 and A1, the CRU bit and the CRU mode K[12] are each arithmetic on the key. -/

namespace Sys2Proof.Machine

/-! ### The fields of a key -/

/-- The eleven regions of R64, each with its addresses. -/
theorem region_cases (a : Word) :
    (region a = .rom ∧ a.toNat < 0x2000) ∨
    (region a = .loram ∧ 0x2000 ≤ a.toNat ∧ a.toNat < 0x4000) ∨
    (region a = .periph ∧ 0x4000 ≤ a.toNat ∧ a.toNat < 0x6000) ∨
    (region a = .cart ∧ 0x6000 ≤ a.toNat ∧ a.toNat < 0x8000) ∨
    (region a = .pad ∧ 0x8000 ≤ a.toNat ∧ a.toNat < 0x8400) ∨
    (region a = .sound ∧ 0x8400 ≤ a.toNat ∧ a.toNat < 0x8600) ∨
    (region a = .gap ∧ 0x8600 ≤ a.toNat ∧ a.toNat < 0x8800) ∨
    (region a = .vdp ∧ 0x8800 ≤ a.toNat ∧ a.toNat < 0x9000) ∨
    (region a = .speech ∧ 0x9000 ≤ a.toNat ∧ a.toNat < 0x9800) ∨
    (region a = .grom ∧ 0x9800 ≤ a.toNat ∧ a.toNat < 0xA000) ∨
    (region a = .hiram ∧ 0xA000 ≤ a.toNat) := by
  unfold region
  split_ifs <;> simp only [true_and, false_and, false_or, or_false] <;> omega

section
variable {t : Txn}

theorem evenAddr_addr_toNat : (evenAddr t.addr).toNat = t.key.toNat % 0x10000 / 2 * 2 := by
  rw [evenAddr_toNat, Txn.addr_toNat]

theorem key_mode_iff : t.key.getLsbD 12 = true ↔ t.key.toNat / 0x1000 % 2 = 1 := by
  rw [getLsbD_eq, decide_eq_true_iff]
  rfl

theorem cruBit_eq_iff {c : CruBit} : t.cruBit = c ↔ t.key.toNat % 0x1000 = c.toNat := by
  rw [BitVec.toNat_eq, Txn.cruBit_toNat]

/-! ### The port bits of R97 -/

/-- A10 of the even address is K[10], so the two ports of a region may be decoded apart. -/
theorem decode_by_A10 {i j : Instr} (one : t.key.toNat / 0x400 % 2 = 1 → decode t = .ok i)
    (zero : t.key.toNat / 0x400 % 2 = 0 → decode t = .ok j) :
    decode t = .ok (if (evenAddr t.addr).getLsbD 10 then i else j) := by
  have a10 : (evenAddr t.addr).getLsbD 10 = true ↔ t.key.toNat / 0x400 % 2 = 1 := by
    rw [getLsbD_eq, decide_eq_true_iff, evenAddr_addr_toNat]
    omega
  simp only [a10]
  split
  next h => exact one h
  next h => exact zero (by omega)

/-- A1 of the even address is K[1]: forcing A0 to 0 leaves it. -/
theorem decode_by_A1 {i j : Instr} (one : t.key.toNat / 2 % 2 = 1 → decode t = .ok i)
    (zero : t.key.toNat / 2 % 2 = 0 → decode t = .ok j) :
    decode t = .ok (if (evenAddr t.addr).getLsbD 1 then i else j) := by
  have a1 : (evenAddr t.addr).getLsbD 1 = true ↔ t.key.toNat / 2 % 2 = 1 := by
    rw [getLsbD_eq, decide_eq_true_iff, evenAddr_addr_toNat]
    omega
  simp only [a1]
  split
  next h => exact one h
  next h => exact zero (by omega)

/-! ### CRU bits by mode (R98) -/

theorem decode_crd_timer (op : t.key.toNat / 0x10000 = 2) (m : t.key.getLsbD 12 = true) (b0 : t.cruBit ≠ 0)
    (b27 : t.cruBit ≠ 27) :
    decode t = .ok (if t.cruBit = 15 then .crdTInt else if t.cruBit.toNat ≤ 14 then .crdTClk t.cruBit
      else .crdStored t.cruBit) := by
  simp only [key_mode_iff, cruBit_eq_iff, Txn.cruBit_toNat, ne_eq, BitVec.reduceToNat] at m b0 b27 ⊢
  split_ifs with b15 b14
  · exact decode_crdTInt op (by omega)
  · exact decode_crdTClk op (by omega) (by omega)
  · exact decode_crdStored op (by omega) (by omega) (by omega)

theorem decode_crd_normal (op : t.key.toNat / 0x10000 = 2) (m : ¬ t.key.getLsbD 12 = true) (b0 : t.cruBit ≠ 0)
    (b27 : t.cruBit ≠ 27) :
    decode t = .ok (if t.cruBit = 2 then .crdNVdp
      else if 3 ≤ t.cruBit.toNat ∧ t.cruBit.toNat ≤ 10 then .crdNKbd t.cruBit else .crdStored t.cruBit) := by
  simp only [key_mode_iff, cruBit_eq_iff, Txn.cruBit_toNat, ne_eq, BitVec.reduceToNat] at m b0 b27 ⊢
  split_ifs with b2 kbd
  · exact decode_crdNVdp op (by omega)
  · exact decode_crdNKbd op (by omega) (by omega)
  · exact decode_crdStored op (by omega) (by omega) (by omega)

theorem decode_cwr_timer (op : t.key.toNat / 0x10000 = 3) (m : t.key.getLsbD 12 = true) (b0 : t.cruBit ≠ 0) :
    decode t = .ok (if t.cruBit = 15 then .cwrTB15 t.cruData
      else if t.cruBit.toNat ≤ 14 then .cwrTClk t.cruBit t.cruData else .cwrTExit t.cruBit t.cruData) := by
  simp only [key_mode_iff, cruBit_eq_iff, Txn.cruBit_toNat, ne_eq, BitVec.reduceToNat] at m b0 ⊢
  split_ifs with b15 b14
  · exact decode_cwrTB15 op (by omega)
  · exact decode_cwrTClk op (by omega) (by omega)
  · exact decode_cwrTExit op (by omega)

theorem decode_cwr_normal (op : t.key.toNat / 0x10000 = 3) (m : ¬ t.key.getLsbD 12 = true) (b0 : t.cruBit ≠ 0) :
    decode t = .ok (if t.cruBit = 3 then .cwrNAck t.cruData
      else if t.cruBit = 22 then .cwrNMotor t.cruData
      else if t.cruBit = 25 then .cwrNTapeOut t.cruData
      else if 2048 ≤ t.cruBit.toNat then .cwrDsr t.cruBit t.cruData else .cwrNStore t.cruBit t.cruData) := by
  simp only [key_mode_iff, cruBit_eq_iff, Txn.cruBit_toNat, ne_eq, BitVec.reduceToNat] at m b0 ⊢
  split_ifs with b3 b22 b25 dsr
  · exact decode_cwrNAck op (by omega)
  · exact decode_cwrNMotor op (by omega)
  · exact decode_cwrNTapeOut op (by omega)
  · exact decode_cwrDsr op (by omega) (by omega)
  · exact decode_cwrNStore op (by omega) (by omega)

end

/-! ### The rows of every bus key -/

/-- Settles O3: each region of the even address, with A10 and A1 in the port regions, is the premise of one row's law. -/
theorem memoryKeyRows : Obligations.MemoryKeyRows := by
  rintro t E rfl
  have even := evenAddr_addr_toNat (t := t)
  constructor
  · intro op
    obtain ⟨r, a⟩ | ⟨r, a⟩ | ⟨r, a⟩ | ⟨r, a⟩ | ⟨r, a⟩ | ⟨r, a⟩ | ⟨r, a⟩ | ⟨r, a⟩ | ⟨r, a⟩ | ⟨r, a⟩ | ⟨r, a⟩ :=
      region_cases (evenAddr t.addr) <;> rw [r]
    · exact decode_mrdRom (by omega)
    · exact decode_mrdLoram (by omega)
    · exact decode_mrdPeriph (by omega)
    · exact decode_mrdCart (by omega)
    · exact decode_mrdPad (by omega)
    · exact decode_mrdSound (by omega)
    · exact decode_mrdGap (by omega)
    · exact decode_by_A10 (fun _ => decode_mrdVdpWp (by omega)) fun _ =>
        decode_by_A1 (decode_mrdVdpStat (by omega)) (decode_mrdVdpData (by omega))
    · exact decode_by_A10 (fun _ => decode_mrdSpchWp (by omega)) fun _ => decode_mrdSpch (by omega)
    · exact decode_by_A10 (fun _ => decode_mrdGrWp (by omega)) fun _ =>
        decode_by_A1 (decode_mrdGrAddr (by omega)) (decode_mrdGrData (by omega))
    · exact decode_mrdHiram (by omega) (by omega)
  · rintro D rfl op
    obtain ⟨r, a⟩ | ⟨r, a⟩ | ⟨r, a⟩ | ⟨r, a⟩ | ⟨r, a⟩ | ⟨r, a⟩ | ⟨r, a⟩ | ⟨r, a⟩ | ⟨r, a⟩ | ⟨r, a⟩ | ⟨r, a⟩ :=
      region_cases (evenAddr t.addr) <;> rw [r]
    · exact decode_mwrRom (by omega)
    · exact decode_mwrLoram (by omega)
    · exact decode_mwrPeriph (by omega)
    · exact decode_mwrCart (by omega)
    · exact decode_mwrPad (by omega)
    · exact decode_mwrSound (by omega)
    · exact decode_mwrGap (by omega)
    · exact decode_by_A10 (fun _ => decode_by_A1 (decode_mwrVdpAddr (by omega)) (decode_mwrVdpData (by omega)))
        fun _ => decode_mwrVdpRp (by omega)
    · exact decode_by_A10 (fun _ => decode_mwrSpch (by omega)) fun _ => decode_mwrSpchRp (by omega)
    · exact decode_by_A10 (fun _ => decode_by_A1 (decode_mwrGrAddr (by omega)) (decode_mwrGrData (by omega)))
        fun _ => decode_mwrGrRp (by omega)
    · exact decode_mwrHiram (by omega) (by omega)

/-- Settles O4: bit 0, and tape input on a read, in either mode; then the rows of one mode. No row's law names K[15:13]. -/
theorem cruKeyRows : Obligations.CruKeyRows := by
  intro t bit hbit
  obtain rfl : bit = t.cruBit := hbit
  constructor
  · intro op
    by_cases b0 : t.cruBit = 0
    · rw [if_pos b0]
      exact decode_crdMode op (cruBit_eq_iff.mp b0)
    by_cases b27 : t.cruBit = 27
    · rw [if_neg b0, if_pos b27]
      exact decode_crdTapeIn op (cruBit_eq_iff.mp b27)
    rw [if_neg b0, if_neg b27]
    split
    next timer => exact decode_crd_timer op timer b0 b27
    next normal => exact decode_crd_normal op normal b0 b27
  · intro v hv op
    obtain rfl : v = t.cruData := hv
    by_cases b0 : t.cruBit = 0
    · rw [if_pos b0]
      exact decode_cwrMode op (cruBit_eq_iff.mp b0)
    rw [if_neg b0]
    split
    next timer => exact decode_cwr_timer op timer b0
    next normal => exact decode_cwr_normal op normal b0

end Sys2Proof.Machine
end

section
/-! The timed memory transactions of 40_bus_memory.md: which keys reach a row, what a read of each region answers, and
what a write of each region stores, with its charge. -/

namespace Sys2Proof.Machine

/-! ### The field of a key that a row's mask tests -/

section
variable {k : Key} {c : Nat}

theorem key_field_7E000 (h : k.toNat &&& 0x7E000 = c * 0x2000) : k.toNat / 0x2000 = c := by
  have := key_lt k
  rw [and_7E000] at h
  omega

theorem key_field_7FC00 (h : k.toNat &&& 0x7FC00 = c * 0x400) : k.toNat / 0x400 = c := by
  have := key_lt k
  rw [and_7FC00] at h
  omega

theorem key_field_7FE00 (h : k.toNat &&& 0x7FE00 = c * 0x200) : k.toNat / 0x200 = c := by
  have := key_lt k
  rw [and_7FE00] at h
  omega

theorem key_field_78000 (h : k.toNat &&& 0x78000 = c * 0x8000) : k.toNat / 0x8000 = c := by
  have := key_lt k
  rw [and_78000] at h
  omega

/-- The rows of a port region that test A1 beside the region. -/
theorem key_fields_7FC02 {b : Nat} (hb : b < 2) (h : k.toNat &&& 0x7FC02 = c * 0x400 + b * 2) :
    k.toNat / 0x400 = c ∧ k.toNat / 2 % 2 = b := by
  have := key_lt k
  rw [and_7FC02] at h
  omega

end

/-! ### What a timed read answers -/

/-- A read that calls no device answers its word for P_WAIT_DEFAULT and leaves the block as it was. -/
theorem exec_timedRead {i : Instr} {s : State} {a d w : Word} (run : exec i s = .next (s.timedRead a d))
    (word : d = w) :
    exec i s = .next { s with reply := ⟨.word w, s.params.waitDefault, [], none⟩ } := by
  subst word
  exact run

/-- R111: the console ROM at the even address. -/
theorem romWord_evenAddr (d : Decoder) (a : Word) :
    romWord d (evenAddr a) =
      be16 (Memory.read d.rom (a.toNat / 2 * 2)) (Memory.read d.rom (a.toNat / 2 * 2 + 1)) := by
  rw [romWord, Memory.readWord, evenAddr_toNat]

/-- R126: the scratchpad at the mirrored cell. -/
theorem padWord_eq (d : Decoder) {a : Word} (lo : 0x8000 ≤ a.toNat) (hi : a.toNat < 0x8400) :
    padWord d a = be16 (Memory.read d.ram (0x8300 + a.toNat % 0x100 / 2 * 2))
      (Memory.read d.ram (0x8300 + a.toNat % 0x100 / 2 * 2 + 1)) := by
  rw [padWord, Memory.readWord, padAddr_toNat lo hi]

/-- The word routing of 20_memory.md R68: both bytes take the same of the three ways. -/
theorem ramRead16_eq (s : State) {e : Word} (even : e.toNat % 2 = 0) :
    ramRead16 s e =
      if s.decoder.amsEn then be16 (amsGet s.params s.ams e) (amsGet s.params s.ams (e + 1))
      else if s.decoder.ram32kEn then
        be16 (Memory.read s.decoder.ram e.toNat) (Memory.read s.decoder.ram (e.toNat + 1))
      else 0 := by
  unfold ramRead16 ramByte
  rw [succ_toNat even]
  split_ifs <;> rfl

theorem amsOverlay_iff (s : State) : amsOverlay s = true ↔ s.decoder.amsEn = true ∧ s.ams.acc = true := by
  rw [amsOverlay, Bool.and_eq_true]

/-- The register index of R119, as the number E[4:1]. -/
theorem amsRegIndex_evenAddr (a : Word) : amsRegIndex (evenAddr a) = BitVec.ofNat 4 (a.toNat / 2 * 2 / 2) := by
  apply BitVec.eq_of_toNat_eq
  rw [amsRegIndex_toNat, BitVec.toNat_ofNat]
  omega

/-- R117: the register overlay hides the peripheral ROM. -/
theorem periphWord_evenAddr (s : State) (a : Word) :
    periphWord s (evenAddr a) =
      if s.decoder.amsEn ∧ s.ams.acc then swap16 (at16 s.ams.reg (BitVec.ofNat 4 (a.toNat / 2 * 2 / 2)))
      else if s.decoder.dsrEn then
        be16 (Image.byte (at16 s.decoder.dsrImg s.decoder.dsrSel) (a.toNat / 2 * 2 - 0x4000))
          (Image.byte (at16 s.decoder.dsrImg s.decoder.dsrSel) (a.toNat / 2 * 2 - 0x4000 + 1))
      else 0 := by
  rw [periphWord, amsRegIndex_evenAddr]
  by_cases shown : s.decoder.amsEn = true ∧ s.ams.acc = true
  · rw [if_pos shown, if_pos ((amsOverlay_iff s).2 shown), amsRegRead, if_pos shown.2]
  · rw [if_neg shown, if_neg (mt (amsOverlay_iff s).1 shown), dsrWord, evenAddr_toNat]
    rfl

/-- The even boundary stays in the cartridge window. -/
theorem evenAddr_in_cart {a : Word} (lo : 0x6000 ≤ a.toNat) (hi : a.toNat < 0x8000) :
    0x6000 ≤ (evenAddr a).toNat ∧ (evenAddr a).toNat < 0x8000 := by
  rw [evenAddr_toNat]
  omega

/-- R128: the seated RAM, or the current bank of the image. -/
theorem cartWord_eq (b : BankSwitch) {e : Word} (lo : 0x6000 ≤ e.toNat) (hi : e.toNat < 0x8000) :
    cartWord b e =
      if (e.toNat < 0x7000 ∧ b.cartRam6 = true) ∨ (0x7000 ≤ e.toNat ∧ b.cartRam7 = true) then
        be16 (Memory.read b.cartRam (cartRamIdx b e)) (Memory.read b.cartRam (cartRamIdx b e + 1))
      else
        be16 (Image.byte b.cartImg (b.romBank * 0x2000 + (e.toNat - 0x6000)))
          (Image.byte b.cartImg (b.romBank * 0x2000 + (e.toNat - 0x6000) + 1)) := by
  simp only [cartWord, ramSeated_iff b lo hi]
  rfl

/-! ### The reads -/

/-- Settles O10: the word of R111 at the even address, the word of R126 at the mirrored cell. -/
theorem romAndPadReads : Obligations.RomAndPadReads := by
  refine ⟨fun t h => decode_mrdRom (key_field_7E000 h), ?_, fun t h => decode_mrdPad (key_field_7FC00 h), ?_⟩
  · rintro a s - E rfl
    exact exec_timedRead (exec_mrdRom s a) (romWord_evenAddr s.decoder a)
  · rintro a s lo hi p rfl
    exact exec_timedRead (exec_mrdPad s a) (padWord_eq s.decoder lo hi)

/-- Settles O11: low and high RAM answer through one routing. -/
theorem ramReads : Obligations.RamReads := by
  refine ⟨fun t h => decode_mrdLoram (key_field_7E000 h), fun t h lo => ?_, ?_⟩
  · have half := key_field_78000 (c := 1) h
    rw [Txn.addr_toNat] at lo
    exact decode_mrdHiram (by omega) (by omega)
  · rintro a s i row E rfl
    have word := ramRead16_eq s (evenAddr_even a)
    obtain ⟨rfl, -⟩ | ⟨rfl, -⟩ := row
    · exact exec_timedRead (exec_mrdLoram s a) word
    · exact exec_timedRead (exec_mrdHiram s a) word

/-- Settles O12: the three answers of R117. -/
theorem periphReads : Obligations.PeriphReads := by
  refine ⟨fun t h => decode_mrdPeriph (key_field_7E000 h), ?_⟩
  rintro a s - - E rfl
  exact exec_timedRead (exec_mrdPeriph s a) (periphWord_evenAddr s a)

/-- Settles O13: the even address stays in the window, where the seat and the index are those of R121 and R123. -/
theorem cartReads : Obligations.CartReads := by
  refine ⟨fun t h => decode_mrdCart (key_field_7E000 h), ?_⟩
  rintro a s lo hi E rfl idx rfl
  obtain ⟨lo', hi'⟩ := evenAddr_in_cart lo hi
  have word := cartWord_eq s.bsc lo' hi'
  rw [cartRamIdx_eq s.bsc lo' hi', evenAddr_toNat] at word
  exact exec_timedRead (exec_mrdCart s a) word

/-- Settles O14: each of the five rows is a read of the constant zero. -/
theorem silentReads : Obligations.SilentReads := by
  refine ⟨fun t h => decode_mrdSound (key_field_7FE00 h), fun t h => decode_mrdGap (key_field_7FE00 h),
    fun t h => decode_mrdVdpWp (key_field_7FC00 h), fun t h => decode_mrdSpchWp (key_field_7FC00 h),
    fun t h => decode_mrdGrWp (key_field_7FC00 h), ?_⟩
  intro a s i row _
  simp only [List.mem_cons, List.not_mem_nil, or_false] at row
  obtain rfl | rfl | rfl | rfl | rfl := row
  · exact exec_timedRead (exec_mrdSound s a) rfl
  · exact exec_timedRead (exec_mrdGap s a) rfl
  · exact exec_timedRead (exec_mrdVdpWp s a) rfl
  · exact exec_timedRead (exec_mrdSpchWp s a) rfl
  · exact exec_timedRead (exec_mrdGrWp s a) rfl

/-- Settles O15: one free value is drawn, and the lane of R94 puts it in D[15:8]. -/
theorem deviceReads : Obligations.DeviceReads := by
  refine ⟨fun t h => ?_, fun t h => ?_, fun t h => decode_mrdSpch (key_field_7FC00 h), fun a s => ?_⟩
  · obtain ⟨port, a1⟩ := key_fields_7FC02 (c := 0x22) (b := 0) (by omega) h
    exact decode_mrdVdpData port a1
  · obtain ⟨port, a1⟩ := key_fields_7FC02 (c := 0x22) (b := 1) (by omega) h
    exact decode_mrdVdpStat port a1
  · exact ⟨fun _ => exec_mrdVdpData s a, fun _ => exec_mrdVdpStat s a, fun _ => exec_mrdSpch s a⟩

/-! ### What a timed write leaves -/

theorem waitCycles_write_default (p : Params) {a : Word} (h : a.toNat < 0x9800 ∨ 0xA000 ≤ a.toNat) :
    waitCycles p true a = p.waitDefault := by
  rw [waitCycles_write, if_neg (by omega)]

/-- A write outside the GROM range replies for P_WAIT_DEFAULT over whatever state its effect leaves. -/
theorem exec_timedWrite {i : Instr} {s u : State} {a : Word} (run : exec i s = .next (u.timedWrite a))
    (h : a.toNat < 0x9800 ∨ 0xA000 ≤ a.toNat) :
    exec i s = .next { u with reply := ⟨.nothing, u.params.waitDefault, [], none⟩ } := by
  rw [run, timedWrite_default u h]

/-- A write port hands its device the lane D[15:8] of R94. -/
theorem exec_deviceWrite {i : Instr} {s : State} {a d : Word} {c : Byte → DeviceCall}
    (run : exec i s = .next (s.timed true a .nothing [c (laneByte d)])) (h : a.toNat < 0x9800) :
    exec i s = .next { s with
      reply := ⟨.nothing, s.params.waitDefault, [c (BitVec.ofNat 8 (d.toNat / 0x100))], none⟩ } := by
  have lane : laneByte d = BitVec.ofNat 8 (d.toNat / 0x100) :=
    BitVec.eq_of_toNat_eq (by rw [laneByte, BitVec.toNat_ofNat, ← hi8_toNat, Nat.mod_eq_of_lt (hi8 d).isLt])
  rw [run, State.timed, waitCycles_write_default s.params (Or.inl h), lane]

/-- A stored word, high byte first, and every other byte as it was. -/
theorem Memory.read_writeWord_high_first (m : Memory) (i : Nat) (d : Word) (x : Nat) :
    Memory.read (Memory.writeWord m i d) x =
      if x = i then hi8 d else if x = i + 1 then lo8 d else Memory.read m x := by
  rw [Memory.read_writeWord]
  split_ifs with high low
  · omega
  · rfl
  · rfl
  · rfl

/-- R118: the register of E[4:1] takes the swapped word while the overlay is shown. -/
theorem periphWrite_shown {s : State} (en : s.decoder.amsEn = true) (acc : s.ams.acc = true) (e d : Word) :
    periphWrite s e d = { s with ams.reg := put16 s.ams.reg (amsRegIndex e) (swap16 d) } := by
  rw [periphWrite, if_pos ((amsOverlay_iff s).2 ⟨en, acc⟩), amsRegWrite, if_pos acc]
  rfl

theorem periphWrite_hidden {s : State} (h : ¬ (s.decoder.amsEn = true ∧ s.ams.acc = true)) (e d : Word) :
    periphWrite s e d = s := by
  rw [periphWrite, if_neg (mt (amsOverlay_iff s).1 h)]

/-- The index k = s[15:1] of R125. -/
theorem bankSelectSource_half (p : Params) (e d : Word) :
    (bankSelectSource p e d).toNat / 2 =
      if p.bankSelectSource = .address then e.toNat / 2 else d.toNat / 2 := by
  unfold bankSelectSource
  cases p.bankSelectSource <;> rfl

/-- R125: paged RAM takes the select from the threshold on; else the ROM bank does, when there is a cartridge. -/
theorem bankSelect_eq (p : Params) (b : BankSwitch) (e d : Word) {k : Nat}
    (hk : (bankSelectSource p e d).toNat / 2 = k) :
    bankSelect p b e d =
      if b.cartPaged = true ∧ b.cartRam7 = true ∧ p.cartRamSel.toNat ≤ e.toNat then
        { b with ramBank := k &&& (p.cartRamBanks - 1) }
      else if 0 < cartBanks b then
        { b with romBank :=
            if b.cartInv then cartBanks b - 1 - (k &&& (cartBanks b - 1)) else k &&& (cartBanks b - 1) }
      else b := by
  subst hk
  simp only [bankSelect, cartRamPaged, Bool.and_eq_true, decide_eq_true_eq, and_assoc]

/-! ### The writes -/

/-- Settles O16: the rows differ in nothing but their charge. -/
theorem discardedWrites : Obligations.DiscardedWrites := by
  refine ⟨fun t h => decode_mwrRom (key_field_7E000 h), fun t h => decode_mwrGap (key_field_7FE00 h),
    fun t h => decode_mwrVdpRp (key_field_7FC00 h), fun t h => decode_mwrSpchRp (key_field_7FC00 h),
    fun t h => decode_mwrGrRp (key_field_7FC00 h), fun a d s => ⟨fun i row wf => ?_, fun wf => ?_⟩⟩
  · simp only [List.mem_cons, List.not_mem_nil, or_false] at row
    obtain rfl | rfl | rfl | rfl := row <;> obtain ⟨-, lo, hi⟩ := evenIn_iff.1 wf
    · exact exec_timedWrite (exec_mwrRom s a d) (by omega)
    · exact exec_timedWrite (exec_mwrGap s a d) (by omega)
    · exact exec_timedWrite (exec_mwrVdpRp s a d) (by omega)
    · exact exec_timedWrite (exec_mwrSpchRp s a d) (by omega)
  · obtain ⟨-, lo, hi⟩ := evenIn_iff.1 wf
    rw [exec_mwrGrRp, execMwrGrRp, timedWrite_grom s lo (by omega)]

/-- Settles O17: each row is one call with the lane of R94, below the GROM range. -/
theorem deviceWrites : Obligations.DeviceWrites := by
  refine ⟨fun t h => decode_mwrSound (key_field_7FE00 h), fun t h => ?_, fun t h => ?_,
    fun t h => decode_mwrSpch (key_field_7FC00 h), fun a d s i c row wf => ?_⟩
  · obtain ⟨port, a1⟩ := key_fields_7FC02 (c := 0x63) (b := 0) (by omega) h
    exact decode_mwrVdpData port a1
  · obtain ⟨port, a1⟩ := key_fields_7FC02 (c := 0x63) (b := 1) (by omega) h
    exact decode_mwrVdpAddr port a1
  · simp only [List.mem_cons, List.not_mem_nil, or_false, Prod.mk.injEq] at row
    obtain ⟨rfl, rfl⟩ | ⟨rfl, rfl⟩ | ⟨rfl, rfl⟩ | ⟨rfl, rfl⟩ := row
    · obtain ⟨-, -, hi⟩ := evenIn_iff.1 wf
      exact exec_deviceWrite (exec_mwrSound s a d) (by omega)
    · obtain ⟨-, -, hi⟩ := evenIn_iff.1 (Bool.and_eq_true_iff.1 wf).1
      exact exec_deviceWrite (exec_mwrVdpData s a d) (by omega)
    · obtain ⟨-, -, hi⟩ := evenIn_iff.1 (Bool.and_eq_true_iff.1 wf).1
      exact exec_deviceWrite (exec_mwrVdpAddr s a d) (by omega)
    · obtain ⟨-, -, hi⟩ := evenIn_iff.1 wf
      exact exec_deviceWrite (exec_mwrSpch s a d) (by omega)

/-- Settles O18: low and high RAM are always mapped, and a word goes whole one of the three ways of R68. -/
theorem ramWrites : Obligations.RamWrites := by
  refine ⟨fun t h => decode_mwrLoram (key_field_7E000 h), fun t h lo => ?_, ?_⟩
  · have half := key_field_78000 (c := 3) h
    rw [Txn.addr_toNat] at lo
    exact decode_mwrHiram (by omega) (by omega)
  rintro a d s i row E rfl r rfl
  have run : exec i s =
      .next { ramWrite16 s (evenAddr a) d with
        reply := ⟨.nothing, (ramWrite16 s (evenAddr a) d).params.waitDefault, [], none⟩ } := by
    obtain ⟨rfl, -, hi⟩ | ⟨rfl, lo⟩ := row
    · exact exec_timedWrite (exec_mwrLoram s a d) (by omega)
    · exact exec_timedWrite (exec_mwrHiram s a d) (by omega)
  have mapped : (0x2000 ≤ (evenAddr a).toNat ∧ (evenAddr a).toNat < 0x4000) ∨ 0xA000 ≤ (evenAddr a).toNat := by
    rw [evenAddr_toNat]
    omega
  have stored := ramWrite16_eq s (evenAddr_even a) d
  refine ⟨fun ams => ?_, fun ams ram => ?_, fun ams ram => ?_⟩
  · obtain ⟨p, phys⟩ := amsPhys_ram s.params s.ams mapped
    rw [if_pos ams, phys] at stored
    exact ⟨p, _, phys, by rw [run, stored], Memory.read_writeWord_high_first s.ams.mem p d⟩
  · rw [if_neg (by simp [ams]), if_pos ram] at stored
    exact ⟨_, by rw [run, stored], Memory.read_writeWord_high_first s.decoder.ram _ d⟩
  · rw [if_neg (by simp [ams]), if_neg (by simp [ram])] at stored
    rw [run, stored]

/-- Settles O19: one word of RAM at the mirrored cell of R69. -/
theorem padWrites : Obligations.PadWrites := by
  refine ⟨fun t h => decode_mwrPad (key_field_7FC00 h), ?_⟩
  rintro a d s lo hi p rfl
  have stored := Memory.read_writeWord_high_first s.decoder.ram (padAddr a).toNat d
  rw [padAddr_toNat lo hi] at stored
  refine ⟨_, ?_, stored⟩
  rw [exec_timedWrite (exec_mwrPad s a d) (by omega), setPadWord, padAddr_toNat lo hi]
  rfl

/-- Settles O20: one register of sixteen while the overlay is shown, nothing otherwise. -/
theorem periphWrites : Obligations.PeriphWrites := by
  refine ⟨fun t h => decode_mwrPeriph (key_field_7E000 h), ?_⟩
  rintro a d s lo hi r rfl
  have run := exec_timedWrite (exec_mwrPeriph s a d) (by omega)
  constructor
  · intro en acc
    rw [periphWrite_shown en acc] at run
    refine ⟨_, run, fun j => ?_⟩
    rw [at16_put16, ← amsRegIndex_toNat a]
    simp only [BitVec.toNat_eq]
  · intro hidden
    rw [periphWrite_hidden hidden] at run
    exact run

/-- Settles O21: a seated half stores at the index of R123; any other half is the bank select of R125. -/
theorem cartWrites : Obligations.CartWrites := by
  refine ⟨fun t h => decode_mwrCart (key_field_7E000 h), ?_⟩
  rintro a d s lo hi E rfl seated seat k rfl n rfl r rfl
  obtain ⟨lo', hi'⟩ := evenAddr_in_cart lo hi
  have run := exec_timedWrite (exec_mwrCart s a d) (by omega)
  have isSeated := ramSeated_iff s.bsc lo' hi'
  rw [evenAddr_toNat] at isSeated
  constructor
  · rintro ram idx rfl
    have index := cartRamIdx_eq s.bsc lo' hi'
    rw [evenAddr_toNat] at index
    rw [cartWrite, if_pos (isSeated.2 (seat.1 ram)), cartRamWrite, index] at run
    exact ⟨_, run, Memory.read_writeWord_high_first s.bsc.cartRam _ d⟩
  · intro rom
    rw [cartWrite, if_neg (fun ram => rom (seat.2 (isSeated.1 ram))),
      bankSelect_eq _ _ _ _ (bankSelectSource_half s.params (evenAddr a) d), evenAddr_toNat] at run
    rw [run]
    unfold cartBanks
    split_ifs <;> rfl

end Sys2Proof.Machine
end

section
/-! The wait-state charge of every transaction (40_bus_memory.md R110): the class of an instruction is the operation
code of its key, and each class charges one way. -/

namespace Sys2Proof.Machine

/-! ### The shared effects keep the parameters and charge nothing of their own -/

theorem ramWrite16_params (s : State) {e : Word} (even : e.toNat % 2 = 0) (d : Word) :
    (ramWrite16 s e d).params = s.params := by
  rw [ramWrite16_eq s even]
  cases amsPhys s.params s.ams e <;> split_ifs <;> rfl

theorem periphWrite_params (s : State) (e d : Word) : (periphWrite s e d).params = s.params := by
  unfold periphWrite
  split_ifs <;> rfl

theorem normalWrite_cycles (bit : CruBit) (v : Bool) (s : State) : (normalWrite bit v s).reply.cycles = 0 := by
  unfold normalWrite
  split_ifs <;> rfl

/-! ### The charge of a class -/

/-- R110 of one instruction in one state. -/
def ChargesByRule (i : Instr) (s : State) : Prop :=
  ∃ t, exec i s = .next t ∧
    t.reply.cycles =
      if isTimedWrite i ∧ 0x9800 ≤ (timedAddr i).toNat ∧ (timedAddr i).toNat < 0xA000 then s.params.waitGromWrite
      else if isTimedRead i ∨ isTimedWrite i then s.params.waitDefault
      else 0

/-- The operation code of a key, which R110 reads the class from. -/
theorem isTimedRead_iff (i : Instr) : isTimedRead i = true ↔ (encode i).key.toNat / 0x10000 = 0 := by
  rw [isTimedRead, beq_iff_eq]

theorem isTimedWrite_iff (i : Instr) : isTimedWrite i = true ↔ (encode i).key.toNat / 0x10000 = 1 := by
  rw [isTimedWrite, beq_iff_eq]

section
variable {i : Instr} {s t : State} {a d : Word}

theorem chargesByRule_of_read (enc : encode i = txnRead a) (run : exec i s = .next t)
    (cost : t.reply.cycles = s.params.waitDefault) : ChargesByRule i s := by
  have key : (encode i).key.toNat = 0 * 0x10000 + a.toNat := by rw [enc]; exact memKey_toNat (by omega) a
  have := a.isLt
  have notWrite : ¬ isTimedWrite i = true := by rw [isTimedWrite_iff]; omega
  have read : isTimedRead i = true := by rw [isTimedRead_iff]; omega
  exact ⟨t, run, by rw [cost, if_neg (fun h => notWrite h.1), if_pos (Or.inl read)]⟩

theorem chargesByRule_of_write (enc : encode i = txnWrite a d) (run : exec i s = .next t)
    (cost : t.reply.cycles = waitCycles s.params true a) : ChargesByRule i s := by
  have key : (encode i).key.toNat = 1 * 0x10000 + a.toNat := by rw [enc]; exact memKey_toNat (by omega) a
  have addr : timedAddr i = a := by rw [timedAddr, enc]; exact memKey_addr (by omega) a _ _ _
  have := a.isLt
  have write : isTimedWrite i = true := by rw [isTimedWrite_iff]; omega
  refine ⟨t, run, ?_⟩
  rw [cost, waitCycles_write, addr]
  simp only [write, true_and, or_true, if_true]

theorem chargesByRule_of_untimed (op : 2 ≤ (encode i).key.toNat / 0x10000) (run : exec i s = .next t)
    (cost : t.reply.cycles = 0) : ChargesByRule i s := by
  have notWrite : ¬ isTimedWrite i = true := by rw [isTimedWrite_iff]; omega
  have notRead : ¬ isTimedRead i = true := by rw [isTimedRead_iff]; omega
  exact ⟨t, run, by rw [cost, if_neg (fun h => notWrite h.1), if_neg (fun h => h.elim notRead notWrite)]⟩

/-- A host operation answers or raises, and neither charges. -/
theorem chargesByRule_of_untimed_ite {p : Prop} [Decidable p] {u : State} (op : 2 ≤ (encode i).key.toNat / 0x10000)
    (run : exec i s = if p then .next t else .next u) (cost : t.reply.cycles = 0) (cost' : u.reply.cycles = 0) :
    ChargesByRule i s := by
  split_ifs at run
  · exact chargesByRule_of_untimed op run cost
  · exact chargesByRule_of_untimed op run cost'

end

theorem cruKey_untimed {op : Nat} (h : op = 2 ∨ op = 3) (m : Bool) (bit : CruBit) :
    2 ≤ (cruKey op m bit).toNat / 0x10000 := by
  rw [cruKey_toNat (by omega)]
  omega

theorem sidebandKey_untimed {id : Nat} (h : id < 64) : 2 ≤ (sidebandKey id).toNat / 0x10000 := by
  rw [sidebandKey_toNat h]
  omega

/-- Every instruction charges by R110, whatever its operands. -/
theorem chargesByRule (i : Instr) (s : State) : ChargesByRule i s := by
  cases i with
  | mrdRom | mrdLoram | mrdPeriph | mrdCart | mrdPad | mrdSound | mrdGap | mrdVdpData | mrdVdpStat | mrdVdpWp | mrdSpch
  | mrdSpchWp | mrdGrData | mrdGrAddr | mrdGrWp | mrdHiram => exact chargesByRule_of_read rfl rfl rfl
  | mwrLoram a d =>
    exact chargesByRule_of_write rfl (exec_mwrLoram s a d)
      (congrArg (waitCycles · true a) (ramWrite16_params s (evenAddr_even a) d))
  | mwrHiram a d =>
    exact chargesByRule_of_write rfl (exec_mwrHiram s a d)
      (congrArg (waitCycles · true a) (ramWrite16_params s (evenAddr_even a) d))
  | mwrPeriph a d =>
    exact chargesByRule_of_write rfl (exec_mwrPeriph s a d)
      (congrArg (waitCycles · true a) (periphWrite_params s (evenAddr a) d))
  | mwrRom | mwrCart | mwrPad | mwrSound | mwrGap | mwrVdpRp | mwrVdpData | mwrVdpAddr | mwrSpchRp | mwrSpch | mwrGrRp
  | mwrGrData | mwrGrAddr => exact chargesByRule_of_write rfl rfl rfl
  | crdTClk bit =>
    have op := cruKey_untimed (op := 2) (by omega) true bit
    have run := exec_crdTClk s bit
    unfold execCrdTClk at run
    split at run <;> exact chargesByRule_of_untimed op run rfl
  | crdStored bit =>
    have op := cruKey_untimed (op := 2) (by omega) false bit
    have run := exec_crdStored s bit
    unfold execCrdStored at run
    split at run <;> exact chargesByRule_of_untimed op run rfl
  | crdMode | crdTInt | crdNVdp | crdNKbd | crdTapeIn =>
    exact chargesByRule_of_untimed (cruKey_untimed (op := 2) (by omega) _ _) rfl rfl
  | cwrTExit bit v =>
    exact chargesByRule_of_untimed (cruKey_untimed (op := 3) (by omega) true bit) (exec_cwrTExit s bit v)
      (normalWrite_cycles bit v _)
  | cwrMode | cwrTClk | cwrTB15 | cwrNAck | cwrNMotor | cwrNTapeOut | cwrDsr | cwrNStore =>
    exact chargesByRule_of_untimed (cruKey_untimed (op := 3) (by omega) _ _) rfl rfl
  | loadRam a bytes =>
    exact chargesByRule_of_untimed_ite (sidebandKey_untimed (by omega)) (exec_loadRam s a bytes) rfl rfl
  | loadGrom base offset bytes =>
    exact chargesByRule_of_untimed_ite (sidebandKey_untimed (by omega)) (exec_loadGrom s base offset bytes) rfl rfl
  | loadCart bytes inv ram6 ram7 paged =>
    exact chargesByRule_of_untimed_ite (sidebandKey_untimed (by omega)) (exec_loadCart s bytes inv ram6 ram7 paged) rfl
      rfl
  | loadDsr slot bytes =>
    exact chargesByRule_of_untimed_ite (sidebandKey_untimed (by omega)) (exec_loadDsr s slot bytes) rfl rfl
  | restoreState snap =>
    exact chargesByRule_of_untimed_ite (sidebandKey_untimed (by omega)) (exec_restoreState s snap) rfl rfl
  | tick | vdpInt | reset | setRam32k | setAms | setGram | getState | dbgRdb | dbgRdw | status =>
    exact chargesByRule_of_untimed (sidebandKey_untimed (by omega)) rfl rfl

/-- Settles O49: the rule holds of every instruction, well formed or not. -/
theorem waitStateCharges : Obligations.WaitStateCharges :=
  fun i s _ => chargesByRule i s

end Sys2Proof.Machine
end

section
/-! The GROM ports (41_grom.md R163, R164, R167, R168): what each transaction leaves of the sequencer, with the cursor's
bytes as numbers and the charge of the port. -/

namespace Sys2Proof.Machine

/-! ### What the sequencer's operations leave -/

/-- A word as the number of its two bytes. -/
theorem be16_eq_ofNat (h l : Byte) : be16 h l = BitVec.ofNat 16 (h.toNat * 0x100 + l.toNat) := by
  rw [← be16_toNat, BitVec.ofNat_toNat, BitVec.setWidth_eq]

theorem be16_zero_low (h : Byte) : be16 h 0 = BitVec.ofNat 16 (h.toNat * 0x100) := by
  simp [be16_eq_ofNat]

/-- The lane of R94 around the cursor's high byte. -/
theorem laneWord_hi8 (a : Word) : laneWord (hi8 a) = BitVec.ofNat 16 (a.toNat / 0x100 * 0x100) := by
  rw [laneWord, be16_zero_low, hi8_toNat]

theorem gromFold_shift (a : Word) : gromFold .shift a = BitVec.ofNat 16 (a.toNat % 0x100 * 0x100) := by
  rw [gromFold, be16_zero_low, lo8_toNat]

theorem gromFold_dup (a : Word) : gromFold .dup a = BitVec.ofNat 16 (a.toNat % 0x100 * 0x0101) := by
  rw [gromFold, be16_eq_ofNat, lo8_toNat, ← Nat.mul_succ]

theorem gromFold_zext (a : Word) : gromFold .zext a = BitVec.ofNat 16 (a.toNat % 0x100) := by
  simp [gromFold, be16_eq_ofNat, lo8_toNat]

/-- R161 and R162 together: only the latches and the cursor change. -/
theorem ginc_grefill (g : GromSeq) :
    ginc (grefill g) = { g with gpref := (grefill g).gpref, gaddr := g.gaddr + 1 } := rfl

/-- R167: the store goes to R160's base, before the refill. -/
theorem gromDataWrite_enabled (g : GromSeq) (a d : Word) :
    gromDataWrite true g (evenAddr a) d =
      ginc (grefill (gromStore g (if gmulti g then BitVec.ofNat 4 (a.toNat / 4) else 0) (g.gaddr - 1) (hi8 d))) := by
  rw [gromDataWrite, if_pos rfl, gbase_eq, laneByte]

theorem gromDataWrite_disabled (g : GromSeq) (e d : Word) : gromDataWrite false g e d = g := rfl

/-- R168, first write of a pair. -/
theorem gromAddrWrite_first {g : GromSeq} (phase : g.gphase = .two) (d : Word) :
    gromAddrWrite g d =
      { g with
        gaddr := BitVec.ofNat 16 (g.gaddr.toNat % 0x100 * 0x100 + d.toNat / 0x100), gphase := .one } := by
  rw [gromAddrWrite, phase, be16_lo8_laneByte]

/-- R168, second write of a pair. -/
theorem gromAddrWrite_second {g : GromSeq} (phase : g.gphase = .one) (d : Word) :
    gromAddrWrite g d =
      ginc (grefill { g with
        gaddr := BitVec.ofNat 16 (g.gaddr.toNat % 0x100 * 0x100 + d.toNat / 0x100), gphase := .two }) := by
  rw [gromAddrWrite, phase, be16_lo8_laneByte]

/-- A GROM write port leaves the sequencer of its rule, for P_WAIT_GROM_WRITE. -/
theorem exec_gromWrite {i : Instr} {s : State} {g g' : GromSeq} {a : Word}
    (run : exec i s = .next ((s.setGsq g).timedWrite a)) (port : evenIn 0x9C00 0x9FFE a = true) (effect : g = g') :
    exec i s = .next { s with gsq := g', reply := ⟨.nothing, s.params.waitGromWrite, [], none⟩ } := by
  obtain ⟨-, lo, hi⟩ := evenIn_iff.1 port
  rw [run, effect, timedWrite_grom _ (by omega) (by omega)]
  rfl

/-! ### The port transactions -/

/-- Settles O22: the latch of R160's base is answered before the refill of R161 and the advance of R162. -/
theorem gromDataReads : Obligations.GromDataReads := by
  refine ⟨fun t h => ?_, ?_⟩
  · obtain ⟨port, a1⟩ := key_fields_7FC02 (c := 0x26) (b := 0) (by omega) h
    exact decode_mrdGrData port a1
  · rintro a s - base rfl
    refine ⟨(grefill s.gsq).gpref, ?_, at16_grefill_gpref s.gsq⟩
    rw [exec_mrdGrData, execMrdGrData, gbase_eq, ginc_grefill]
    rfl

/-- Settles O23: one fold for each value of P_GROM_ADDR_READ_FOLD. -/
theorem gromAddressReads : Obligations.GromAddressReads := by
  refine ⟨fun t h => ?_, ?_⟩
  · obtain ⟨port, a1⟩ := key_fields_7FC02 (c := 0x26) (b := 1) (by omega) h
    exact decode_mrdGrAddr port a1
  · rintro a s - l rfl
    rw [exec_mrdGrAddr, execMrdGrAddr, laneWord_hi8]
    cases s.params.gromAddrReadFold with
    | shift => rw [gromFold_shift]; rfl
    | dup => rw [gromFold_dup]; rfl
    | zext => rw [gromFold_zext]; rfl

/-- Settles O24: the store comes before the refill, so the latches hold what the bases hold after it. -/
theorem gromDataWrites : Obligations.GromDataWrites := by
  refine ⟨fun t h => ?_, ?_⟩
  · obtain ⟨port, a1⟩ := key_fields_7FC02 (c := 0x67) (b := 0) (by omega) h
    exact decode_mwrGrData port a1
  rintro a d s wf base rfl r rfl
  obtain ⟨port, -⟩ := Bool.and_eq_true_iff.1 wf
  have run := exec_mwrGrData s a d
  constructor
  · intro gram
    rw [execMwrGrData, gram] at run
    refine ⟨_, _, exec_gromWrite run port (gromDataWrite_enabled s.gsq a d), fun b x => ?_, at16_grefill_gpref _⟩
    rw [grefill_grom, read_gromStore, pred_toNat]
  · intro gram
    rw [execMwrGrData, gram] at run
    exact exec_gromWrite run port (gromDataWrite_disabled s.gsq (evenAddr a) d)

/-- Settles O25: the phase decides whether the shifted cursor is also used. -/
theorem gromAddressWrites : Obligations.GromAddressWrites := by
  refine ⟨fun t h => ?_, ?_⟩
  · obtain ⟨port, a1⟩ := key_fields_7FC02 (c := 0x67) (b := 1) (by omega) h
    exact decode_mwrGrAddr port a1
  rintro a d s wf c rfl r rfl
  obtain ⟨port, -⟩ := Bool.and_eq_true_iff.1 wf
  have run := exec_mwrGrAddr s a d
  constructor
  · intro phase
    exact exec_gromWrite run port (gromAddrWrite_first phase d)
  · intro phase
    exact ⟨_, exec_gromWrite run port (gromAddrWrite_second phase d), at16_grefill_gpref _⟩

end Sys2Proof.Machine
end

section
/-! The CRU (42_cru.md R181 to R196, R199, R200): which keys reach each row, what a read answers, which line a write
stores, and what the timer, the peripheral ROM selection and the AMS controls take from a written bit. -/

namespace Sys2Proof.Machine

/-! ### The bit of a key in each mode (R98) -/

section
variable {t : Txn}

theorem key_low_timer (m : t.key.getLsbD 12 = true) : t.key.toNat % 0x2000 = 0x1000 + t.cruBit.toNat := by
  rw [key_mode_iff] at m
  rw [Txn.cruBit_toNat]
  omega

theorem key_low_normal (m : t.key.getLsbD 12 = false) : t.key.toNat % 0x2000 = t.cruBit.toNat := by
  have m' := mt key_mode_iff.2 (Bool.eq_false_iff.1 m)
  rw [Txn.cruBit_toNat]
  omega

end

/-! ### What a read takes from the block -/

/-- R183, P_TIMER_READ = CLOCK. -/
theorem clk_line (c : CruUnit) (i : Nat) : c.clk.getLsbD i = (c.clk.toNat / 2 ^ i % 2 == 1) := by
  rw [getLsbD_eq, beq_eq_decide]

/-- R183, P_TIMER_READ = DEC: the reduction mod 2^14 keeps each of the fourteen bits a read can name. -/
theorem decReading_line (c : CruUnit) {i : Nat} (hi : i < 14) :
    (decReading c).getLsbD i = (max c.dec 0 / 2 ^ i % 2 == 1) := by
  have low : (decReading c).getLsbD i = c.dec.toNat.testBit i := by
    rw [decReading, BitVec.getLsbD_ofNat, decide_eq_true hi, Bool.true_and]
  have whole : max c.dec 0 / 2 ^ i % 2 = ((c.dec.toNat / 2 ^ i % 2 : Nat) : Int) := by
    rw [← Int.ofNat_toNat]
    norm_cast
  rw [low, whole, Nat.testBit_eq_decide_div_mod_eq, Bool.eq_iff_iff, decide_eq_true_iff, beq_iff_eq]
  norm_cast

theorem bitNat_eq_one_iff {b : Bool} : bitNat b = 1 ↔ b = true := by cases b <;> decide

/-- R184: the keyboard column is the number of lines 18 to 20. -/
theorem kbdColumn_line (c : CruUnit) {j : Nat} (hj : j < 3) :
    (kbdColumn c).getLsbD j = CruLines.read c.bits (18 + j) := by
  have l18 := bitNat_le (cruLine c 18)
  have l19 := bitNat_le (cruLine c 19)
  have l20 := bitNat_le (cruLine c 20)
  rw [getLsbD_eq, kbdColumn, BitVec.toNat_ofNat, Bool.eq_iff_iff, decide_eq_true_iff, ← bitNat_eq_one_iff]
  change _ ↔ bitNat (cruLine c (18 + j)) = 1
  interval_cases j <;> simp only [Nat.reducePow, Nat.reduceAdd] <;> omega

theorem kbdColumn_unique (c : CruUnit) {col : BitVec 3}
    (lines : ∀ j : Nat, j < 3 → col.getLsbD j = CruLines.read c.bits (18 + j)) : kbdColumn c = col :=
  BitVec.eq_of_getLsbD_eq fun j hj => by rw [kbdColumn_line c hj, lines j hj]

theorem kbdRow_unique {bit : CruBit} {row : BitVec 3} (h : row.toNat = bit.toNat - 3) : kbdRow bit = row := by
  rw [kbdRow, ← h, BitVec.ofNat_toNat, BitVec.setWidth_eq]

/-! ### What a write takes from its bit -/

/-- R189: the written clock bit and no other; CRU bit k is CLK[k-1]. -/
theorem putBit_clk_line (clk : BitVec 14) {bit : CruBit} (pos : 1 ≤ bit.toNat) (v : Bool) {j : Nat} (hj : j < 14) :
    (putBit clk (bit.toNat - 1) v).getLsbD j = if j + 1 = bit.toNat then v else clk.getLsbD j := by
  have same : j = bit.toNat - 1 ↔ j + 1 = bit.toNat := by omega
  simp only [putBit_getLsbD clk v hj, same]

theorem lo8_dsrAddr_eq_zero (bit : CruBit) : lo8 (dsrAddr bit) = 0 ↔ 2 * bit.toNat % 0x100 = 0 := by
  rw [BitVec.toNat_eq, lo8_toNat, dsrAddr_toNat]
  rfl

theorem dsrSlot_dsrAddr (bit : CruBit) : dsrSlot (dsrAddr bit) = BitVec.ofNat 4 (2 * bit.toNat / 0x100) :=
  BitVec.eq_of_toNat_eq (by rw [dsrSlot_toNat, dsrAddr_toNat, BitVec.toNat_ofNat])

theorem dsrSlot_dsrAddr_eq (bit : CruBit) (n : BitVec 4) :
    dsrSlot (dsrAddr bit) = n ↔ 2 * bit.toNat / 0x100 % 16 = n.toNat := by
  rw [BitVec.toNat_eq, dsrSlot_toNat, dsrAddr_toNat]

theorem dsrSubField_dsrAddr_eq (bit : CruBit) (n : BitVec 3) :
    dsrSubField (dsrAddr bit) = n ↔ 2 * bit.toNat / 2 % 8 = n.toNat := by
  rw [BitVec.toNat_eq, dsrSubField_toNat, dsrAddr_toNat]

/-- R195: the slot is selected and enabled by a 1 where the doubled address ends in 00, and disabled by a 0 there. -/
theorem dsrSelect_eq (p : Params) (d : Decoder) (bit : CruBit) (v : Bool) {A : Nat} (hA : A = 2 * bit.toNat) :
    dsrSelect p d bit v =
      { d with
        dsrSel := if A % 0x100 = 0 ∧ v = true then BitVec.ofNat 4 (A / 0x100) else d.dsrSel
        dsrEn :=
          if A % 0x100 = 0 then
            (if v then true
            else if A / 0x100 % 16 = d.dsrSel.toNat ∨ p.dsrDisableAny = true then false
            else d.dsrEn)
          else d.dsrEn } := by
  subst hA
  simp only [dsrSelect, lo8_dsrAddr_eq_zero, dsrSlot_dsrAddr_eq]
  by_cases select : 2 * bit.toNat % 0x100 = 0
  · cases v with
    | true => simp only [select, and_self, if_true, dsrSlot_dsrAddr]
    | false =>
      simp only [select, Bool.false_eq_true, and_false, if_true, if_false]
      split_ifs <;> rfl
  · simp only [select, false_and, if_false]

/-- R195: the AMS controls are sub-fields 0 and 1 of [0x1E00,0x1F00). -/
theorem amsControl_eq (u : PageMapper) (bit : CruBit) (v : Bool) {A : Nat} (hA : A = 2 * bit.toNat) :
    amsControl u bit v =
      { u with
        acc := if 0x1E00 ≤ A ∧ A < 0x1F00 ∧ A / 2 % 8 = 0 then v else u.acc
        mode := if 0x1E00 ≤ A ∧ A < 0x1F00 ∧ A / 2 % 8 = 1 then v else u.mode } := by
  subst hA
  simp only [amsControl, dsrAddr_toNat, dsrSubField_dsrAddr_eq, BitVec.reduceToNat, ← and_assoc]
  by_cases window : 0x1E00 ≤ 2 * bit.toNat ∧ 2 * bit.toNat < 0x1F00
  · simp only [window, true_and, if_true]
    split_ifs
    · omega
    · rfl
    · rfl
    · rfl
  · simp only [window, false_and, if_false]

/-! ### The row that timer exit performs (R191) -/

/-- The row that a bit from 16 on and a value decode to with M = 0. -/
def normalWriteRow (bit : CruBit) (v : Bool) : Instr :=
  if bit = 22 then .cwrNMotor v
  else if bit = 25 then .cwrNTapeOut v
  else if 0x800 ≤ bit.toNat then .cwrDsr bit v
  else .cwrNStore bit v

theorem exec_normalWriteRow (bit : CruBit) (v : Bool) (s : State) :
    exec (normalWriteRow bit v) s = .next (normalWrite bit v s) := by
  unfold normalWriteRow normalWrite
  split_ifs
  · exact exec_cwrNMotor s v
  · exact exec_cwrNTapeOut s v
  · exact exec_cwrDsr s bit v
  · exact exec_cwrNStore s bit v

theorem decode_normalWriteRow {t : Txn} (op : t.key.toNat / 0x10000 = 3) (m : t.key.getLsbD 12 = false)
    (low : 16 ≤ t.cruBit.toNat) : decode t = .ok (normalWriteRow t.cruBit t.cruData) := by
  have ne : ∀ c : CruBit, c.toNat < 16 → t.cruBit ≠ c := by
    rintro c hc rfl
    omega
  rw [decode_cwr_normal op (Bool.eq_false_iff.1 m) (ne 0 (by decide)), if_neg (ne 3 (by decide)), normalWriteRow]

/-- The key of a normal-mode write of a bit, as R191 spells it. -/
theorem normalWriteKey_fields {t : Txn} {bit : CruBit} (h : t.key = BitVec.ofNat 19 (0x30000 + bit.toNat)) :
    t.key.toNat / 0x10000 = 3 ∧ t.key.getLsbD 12 = false ∧ t.cruBit = bit := by
  have bound := bit.isLt
  have key : t.key.toNat = 0x30000 + bit.toNat := by
    rw [h, BitVec.toNat_ofNat]
    omega
  refine ⟨by omega, ?_, ?_⟩
  · rw [Bool.eq_false_iff, ne_eq, key_mode_iff]
    omega
  · rw [cruBit_eq_iff]
    omega

theorem cruData_of_words {t : Txn} {v : Bool} (h : t.words = [v.toNat]) : t.cruData = v := by
  rw [Txn.cruData, Txn.scalar, h]
  cases v <;> rfl

/-- Leaving timer mode is kept by the write that follows. -/
theorem normalWrite_tmode (bit : CruBit) (v : Bool) (s : State) : (normalWrite bit v s).cru.tmode = s.cru.tmode := by
  obtain ⟨n, e, m, a, r, keeps⟩ := normalWrite_keeps bit v s
  rw [keeps]
  rfl

/-! ### The transactions -/

/-- Settles O26: the decrementer is the one answer whose bit is not read straight off the block. -/
theorem timerBitReads : Obligations.TimerBitReads := by
  refine ⟨fun t op m lo hi => ?_, fun bit s wf => ?_⟩
  · have low := key_low_timer m
    exact decode_crdTClk op (by omega) (by omega)
  obtain ⟨-, hi⟩ := bitIn_iff.1 wf
  rw [exec_crdTClk, execCrdTClk]
  refine ⟨fun clock => ?_, fun dec => ?_, fun draw => ?_⟩
  · rw [clock, clk_line]
    rfl
  · rw [dec, decReading_line s.cru (by rw [clkIndex]; omega)]
    rfl
  · rw [draw]
    exact ⟨_, rfl⟩

/-- Settles O27: the keyboard is called with the only column that lines 18 to 20 spell and the only row of its bit. -/
theorem flagAndLineReads : Obligations.FlagAndLineReads := by
  refine ⟨fun m t op _ _ hi => ?_, fun t op m lo hi => ?_, fun t op m lo hi => ?_, fun t op m lo hi => ?_,
    fun m t op _ lo hi => ?_, fun s => ⟨exec_crdMode s, exec_crdTInt s, exec_crdNVdp s, ?_, exec_crdTapeIn s⟩⟩
  · rw [Txn.cruBit_toNat] at hi
    exact decode_crdMode op (by omega)
  · have low := key_low_timer m
    exact decode_crdTInt op (by omega)
  · have low := key_low_normal m
    exact decode_crdNVdp op (by omega)
  · have low := key_low_normal m
    exact decode_crdNKbd op (by omega) (by omega)
  · rw [Txn.cruBit_toNat] at lo hi
    exact decode_crdTapeIn op (by omega)
  · intro bit _ col row lines hrow
    rw [exec_crdNKbd, execCrdNKbd, kbdColumn_unique s.cru lines, kbdRow_unique hrow]
    rfl

/-- Settles O28: one answer for each value of P_UNLISTED_CRU_READ. -/
theorem storedBitReads : Obligations.StoredBitReads := by
  refine ⟨fun t op m lo hi => ?_, fun t op m lo hi => ?_,
    fun _ => ⟨fun t op _ lo hi => ?_, fun t op _ lo hi => ?_⟩, fun bit s _ => ?_⟩
  · have low := key_low_normal m
    exact decode_crdStored op (by omega) (by omega) (by omega)
  · have low := key_low_normal m
    exact decode_crdStored op (by omega) (by omega) (by omega)
  · rw [Txn.cruBit_toNat] at lo hi
    exact decode_crdStored op (by omega) (by omega) (by omega)
  · rw [Txn.cruBit_toNat] at lo hi
    exact decode_crdStored op (by omega) (by omega) (by omega)
  rw [exec_crdStored, execCrdStored]
  refine ⟨fun stored => ?_, fun zero => ?_, fun draw => ?_⟩
  · rw [stored]
    rfl
  · rw [zero]
    rfl
  · rw [draw]
    exact ⟨_, rfl⟩

/-- Settles O29: the reload is R189's, on the clock as it stands after the bit is written. -/
theorem modeAndClockWrites : Obligations.ModeAndClockWrites := by
  refine ⟨fun m t op _ _ hi => ?_, fun t op m lo hi => ?_, fun t op m lo hi => ?_,
    fun v s => ⟨exec_cwrMode s v, exec_cwrTB15 s v⟩, fun bit v s wf => ?_⟩
  · rw [Txn.cruBit_toNat] at hi
    exact decode_cwrMode op (by omega)
  · have low := key_low_timer m
    exact decode_cwrTB15 op (by omega)
  · have low := key_low_timer m
    exact decode_cwrTClk op (by omega) (by omega)
  · obtain ⟨pos, -⟩ := bitIn_iff.1 wf
    refine ⟨putBit s.cru.clk (bit.toNat - 1) v, ?_, fun j hj => putBit_clk_line s.cru.clk pos v hj⟩
    rw [exec_cwrTClk, execCwrTClk, clockWrite_eq]
    rfl

/-- Settles O30: both sides are the normal-mode write in the state whose TMODE is cleared. -/
theorem timerExitWrites : Obligations.TimerExitWrites := by
  refine ⟨fun t op m lo hi => ?_, fun bit v s wf => ?_⟩
  · have low := key_low_timer m
    exact decode_cwrTExit op (by omega)
  obtain ⟨lo, -⟩ := bitIn_iff.1 wf
  refine ⟨normalWriteRow bit v, normalWrite bit v { s with cru.tmode := false }, ?_, exec_normalWriteRow bit v _,
    exec_cwrTExit s bit v, normalWrite_tmode bit v _⟩
  obtain ⟨op, m, hbit⟩ := normalWriteKey_fields (bit := bit)
    (t := { Txn.ofKey (BitVec.ofNat 19 (0x30000 + bit.toNat)) with words := [v.toNat] }) rfl
  rw [decode_normalWriteRow op m (by rw [hbit]; exact lo), hbit, cruData_of_words rfl]

/-- Settles O31: every row stores by `storeLine`, whose law is the frame of the lines. -/
theorem storedBitWrites : Obligations.StoredBitWrites := by
  refine ⟨fun t op m lo hi => ?_, fun t op m lo hi => ?_, fun t op m lo hi => ?_, fun t op m lo hi => ?_,
    fun t op m lo hi => ?_, fun t op m lo hi => ?_, fun t op m lo hi => ?_, fun v s wrote hwrote => ?_⟩
  · have low := key_low_normal m
    exact decode_cwrNAck op (by omega)
  · have low := key_low_normal m
    exact decode_cwrNMotor op (by omega)
  · have low := key_low_normal m
    exact decode_cwrNTapeOut op (by omega)
  iterate 4
    · have low := key_low_normal m
      exact decode_cwrNStore op (by omega) (by omega)
  have stored (n : Nat) : wrote (storeLine s.cru n v).bits n := (hwrote _ n).2 (read_storeLine s.cru n v)
  exact ⟨⟨_, stored 3, exec_cwrNAck s v⟩, ⟨_, stored 22, exec_cwrNMotor s v⟩, ⟨_, stored 25, exec_cwrNTapeOut s v⟩,
    fun bit _ => ⟨_, stored bit.toNat, exec_cwrNStore s bit v⟩⟩

/-- Settles O32: the line, the selection and the AMS controls are written apart, each by its own law. -/
theorem dsrSpaceWrites : Obligations.DsrSpaceWrites := by
  refine ⟨fun t op m lo hi => ?_, fun bit v s _ A hA => ?_⟩
  · have low := key_low_normal m
    exact decode_cwrDsr op (by omega) (by omega)
  refine ⟨(storeLine s.cru bit.toNat v).bits, ?_, read_storeLine s.cru bit.toNat v⟩
  rw [exec_cwrDsr, execCwrDsr, dsrWrite, dsrSelect_eq s.params s.decoder bit v hA, amsControl_eq s.ams bit v hA]
  rfl

/-- Settles O33: the three cases of R199 are those of `timerTick_eq`. -/
theorem tickAndVdpInt : Obligations.TickAndVdpInt := by
  refine ⟨?_, fun level s => exec_vdpInt s level⟩
  rintro delta s e rfl d rfl r rfl
  rw [exec_tick, execTick, timerTick_eq]
  split_ifs <;> rfl

end Sys2Proof.Machine
end

section
/-! The host operations (43_host.md): a load as its last byte at each cell, the installed images, and the debug reads as
the timed reads of the same address. -/

namespace Sys2Proof.Machine

/-! ### The last byte sent to a place -/

/-- The last byte of a list at an index that meets a test, or the old byte where no index does. -/
def lastByte (bytes : List Byte) (sent : Nat → Bool) (old : Byte) : Byte :=
  match lastIndex bytes.length sent with
  | some j => bytes.getD j 0
  | none => old

/-- Index 0 counts only where no later index meets the test. -/
theorem lastIndex_succ (n : Nat) (p : Nat → Bool) :
    lastIndex (n + 1) p =
      match lastIndex n (fun j => p (j + 1)) with
      | some j => some (j + 1)
      | none => if p 0 then some 0 else none := by
  have later : ((List.range n).map Nat.succ).filter p =
      ((List.range n).filter fun j => p (j + 1)).map Nat.succ := List.filter_map
  unfold lastIndex
  rw [List.range_succ_eq_map, List.filter_cons, later]
  cases hl : ((List.range n).filter fun j => p (j + 1)).getLast? with
  | none =>
    rw [List.getLast?_eq_none_iff] at hl
    rw [hl]
    split_ifs <;> rfl
  | some j => split_ifs <;> simp [List.getLast?_cons, hl]

/-- A loader stores its first byte, then the rest over it. -/
theorem lastByte_cons (b : Byte) (bs : List Byte) (p : Nat → Bool) (old : Byte) :
    lastByte (b :: bs) p old = lastByte bs (fun j => p (j + 1)) (if p 0 then b else old) := by
  unfold lastByte
  rw [List.length_cons, lastIndex_succ]
  cases lastIndex bs.length (fun j => p (j + 1)) with
  | some j => simp
  | none => cases p 0 <;> simp

/-! ### LOAD_RAM (R210) -/

/-- A byte stored in a cell of RAM, AMS_MEM or CART_RAM. -/
def writeCell (c : StoreCell) (b : Byte) (s : State) : State :=
  match c with
  | .ram i => { s with decoder.ram := Memory.write s.decoder.ram i b }
  | .ams i => { s with ams.mem := Memory.write s.ams.mem i b }
  | .cartRam i => { s with bsc.cartRam := Memory.write s.bsc.cartRam i b }

theorem cellByte_writeCell (c : StoreCell) (b : Byte) (s : State) (c' : StoreCell) :
    cellByte (writeCell c b s) c' = if c = c' then b else cellByte s c' := by
  cases c <;> cases c' <;> simp [writeCell, cellByte, Memory.read_write, eq_comm]

/-- The routing reads no byte of the stores a load writes. -/
theorem loadTarget_writeCell (c : StoreCell) (b : Byte) (s : State) (t : Word) :
    loadTarget (writeCell c b s) t = loadTarget s t := by
  cases c <;> rfl

/-- A byte routed through 20_memory.md R68 goes to a cell of AMS_MEM, of RAM, or nowhere. -/
theorem setRamByte_eq_writeCell (s : State) (t : Word) (b : Byte) :
    setRamByte s t b =
      ((if s.decoder.amsEn then (amsPhys s.params s.ams t).map StoreCell.ams
        else if s.decoder.ram32kEn then some (.ram t.toNat) else none).elim s fun c => writeCell c b s) := by
  rw [setRamByte_eq]
  split_ifs
  · cases amsPhys s.params s.ams t <;> rfl
  · rfl
  · rfl

/-- One byte of LOAD_RAM is one store at its target. -/
theorem loadRamByte_eq_writeCell (t : Word) (b : Byte) (s : State) :
    loadRamByte t b s = (loadTarget s t).elim s fun c => writeCell c b s := by
  unfold loadRamByte loadTarget
  cases region t with
  | loram | hiram => exact setRamByte_eq_writeCell s t b
  | cart =>
    dsimp only
    split_ifs <;> rfl
  | _ => rfl

theorem cellByte_loadRamByte (t : Word) (b : Byte) (s : State) (c : StoreCell) :
    cellByte (loadRamByte t b s) c = if loadTarget s t = some c then b else cellByte s c := by
  rw [loadRamByte_eq_writeCell]
  cases loadTarget s t with
  | none => simp
  | some c' => simp [cellByte_writeCell]

theorem loadTarget_loadRamByte (t : Word) (b : Byte) (s : State) (t' : Word) :
    loadTarget (loadRamByte t b s) t' = loadTarget s t' := by
  rw [loadRamByte_eq_writeCell]
  cases loadTarget s t with
  | none => rfl
  | some c => exact loadTarget_writeCell c b s t'

theorem cellByte_loadRamBytes (bs : List Byte) (t : Word) (s : State) (c : StoreCell) :
    cellByte (loadRamBytes t bs s) c =
      lastByte bs (fun j => decide (loadTarget s (t + BitVec.ofNat 16 j) = some c)) (cellByte s c) := by
  induction bs generalizing t s with
  | nil => rfl
  | cons b bs ih =>
    have next (j : Nat) : t + 1 + BitVec.ofNat 16 j = t + BitVec.ofNat 16 (j + 1) := by
      rw [BitVec.ofNat_add, BitVec.add_assoc, BitVec.add_comm (BitVec.ofNat 16 j)]
      rfl
    have first : t + BitVec.ofNat 16 0 = t := BitVec.add_zero t
    rw [loadRamBytes, ih, lastByte_cons, cellByte_loadRamByte]
    simp only [loadTarget_loadRamByte, next, first, decide_eq_true_eq]

/-- Settles O37: the targets do not move during a load, so each cell keeps the last byte sent to it. -/
theorem loadRamStores : Obligations.LoadRamStores := by
  refine ⟨fun a s => exec_loadRam s a [], fun a bytes s nonempty => ?_⟩
  obtain ⟨m1, m2, m3, loaded⟩ := loadRamBytes_keeps bytes a s
  refine ⟨m1, m2, m3, ?_, fun c => ?_⟩
  · rw [exec_loadRam, execLoadRam, if_neg (mt List.isEmpty_iff.1 nonempty), loaded]
    rfl
  · rw [← loaded]
    exact cellByte_loadRamBytes bytes a s c

/-! ### LOAD_GROM (R211) -/

theorem read_loadGromBytes (base : BitVec 4) (bs : List Byte) (o : Word) (g : GromSeq) (b : BitVec 4) (x : Nat) :
    Memory.read (at16 (loadGromBytes base o bs g).grom b) x =
      lastByte bs (fun j => decide (b = base ∧ (o.toNat + j) % 0x10000 = x)) (Memory.read (at16 g.grom b) x) := by
  induction bs generalizing o g with
  | nil => rfl
  | cons v bs ih =>
    have next (j : Nat) : ((o + 1).toNat + j) % 0x10000 = (o.toNat + (j + 1)) % 0x10000 := by
      rw [BitVec.toNat_add]
      simp
      omega
    have first : (o.toNat + 0) % 0x10000 = o.toNat := Nat.mod_eq_of_lt o.isLt
    rw [loadGromBytes, ih, lastByte_cons, read_gromStore]
    simp only [next, first, decide_eq_true_eq, eq_comm (a := x)]

/-- Settles O38: the bytes and the populated flags are two fields of the sequencer, each with its own law. -/
theorem loadGromStores : Obligations.LoadGromStores := by
  refine ⟨fun base offset s => exec_loadGrom s base offset [], fun base offset bytes s nonempty => ?_⟩
  obtain ⟨G, loaded⟩ := loadGromBytes_keeps base bytes offset s.gsq
  have populated : populate { s.gsq with grom := G } base =
      { s.gsq with grom := G, gpop := (populate s.gsq base).gpop } := by
    unfold populate
    split_ifs <;> rfl
  refine ⟨G, (populate s.gsq base).gpop, ?_, at16_populate s.gsq base, fun b x => ?_⟩
  · rw [exec_loadGrom, execLoadGrom, if_neg (mt List.isEmpty_iff.1 nonempty), loaded, populated]
    rfl
  · have read := read_loadGromBytes base bytes offset s.gsq b x
    rw [loaded] at read
    exact read

/-! ### LOAD_CART and LOAD_DSR (R212, R213) -/

/-- Settles O39: the padded size is R212's, and bytes beyond the list read 0x00 under either image. -/
theorem imageLoads : Obligations.ImageLoads := by
  constructor
  · intro inv ram6 ram7 paged slot s i row
    simp only [List.mem_cons, List.not_mem_nil, or_false] at row
    obtain rfl | rfl := row
    · exact exec_loadCart s [] inv ram6 ram7 paged
    · exact exec_loadDsr s slot []
  · intro bytes s nonempty
    have empty : ¬ bytes.isEmpty = true := mt List.isEmpty_iff.1 nonempty
    constructor
    · intro inv ram6 ram7 paged
      obtain ⟨whole, fits, least⟩ := paddedSize_bounds bytes.length
      refine ⟨Image.padded bytes (paddedSize bytes.length), ?_, whole, fits, least, Image.byte_padded fits⟩
      rw [exec_loadCart, execLoadCart, if_neg empty]
      rfl
    · intro slot
      have installed := at16_put16 s.decoder.dsrImg slot (x := Image.ofBytes bytes)
      refine ⟨put16 s.decoder.dsrImg slot (Image.ofBytes bytes), ?_, fun b other => ?_, ?_⟩
      · rw [exec_loadDsr, execLoadDsr, if_neg empty]
        rfl
      · rw [installed, if_neg other]
      · rw [installed, if_pos rfl]
        exact ⟨rfl, Image.byte_ofBytes bytes⟩

/-! ### Debug reads (R221, R222) -/

theorem hi8_eq_ofNat (w : Word) : hi8 w = BitVec.ofNat 8 (w.toNat / 0x100) := by
  rw [← hi8_toNat, BitVec.ofNat_toNat, BitVec.setWidth_eq]

theorem lo8_eq_ofNat (w : Word) : lo8 w = BitVec.ofNat 8 w.toNat :=
  BitVec.eq_of_toNat_eq (lo8_toNat w)

/-- The half of the debug word that an address names. -/
theorem debugByte_eq (s : State) (a : Word) :
    debugByte s a = BitVec.ofNat 8
      (if a.toNat % 2 = 0 then (debugWord s (evenAddr a)).toNat / 0x100 else (debugWord s (evenAddr a)).toNat) := by
  unfold debugByte
  split_ifs
  · exact hi8_eq_ofNat _
  · exact lo8_eq_ofNat _

/-- A debug read leaves the ports alone. -/
theorem debugWord_port (s : State) {e : Word} (port : region e ∈ [Region.sound, .gap, .vdp, .speech, .grom]) :
    debugWord s e = 0 := by
  simp only [List.mem_cons, List.not_mem_nil, or_false] at port
  unfold debugWord
  obtain r | r | r | r | r := port <;> rw [r]

/-- A key that is an even address is that address's read. -/
theorem evenAddr_addr_ofNat {e : Word} (even : e.toNat % 2 = 0) :
    e = evenAddr (Txn.ofKey (BitVec.ofNat 19 e.toNat)).addr := by
  have := e.isLt
  apply BitVec.eq_of_toNat_eq
  rw [evenAddr_addr_toNat]
  show e.toNat = (BitVec.ofNat 19 e.toNat).toNat % 0x10000 / 2 * 2
  rw [BitVec.toNat_ofNat]
  omega

/-- The timed read that an even address decodes to answers the debug word, unless it is the read of a port. -/
theorem exec_read_debugWord (s : State) {e : Word} (even : e.toNat % 2 = 0) {i : Instr}
    (row : decode (Txn.ofKey (BitVec.ofNat 19 e.toNat)) = .ok i)
    (store : i ∈ [Instr.mrdRom e, .mrdLoram e, .mrdHiram e, .mrdPeriph e, .mrdCart e, .mrdPad e]) :
    exec i s = .next (s.timedRead e (debugWord s e)) := by
  have same : evenAddr e = e := BitVec.eq_of_toNat_eq (by rw [evenAddr_toNat]; omega)
  have op : (Txn.ofKey (BitVec.ofNat 19 e.toNat)).key.toNat / 0x10000 = 0 := by
    have := e.isLt
    show (BitVec.ofNat 19 e.toNat).toNat / 0x10000 = 0
    rw [BitVec.toNat_ofNat]
    omega
  have byRegion := (memoryKeyRows _ e (evenAddr_addr_ofNat even)).1 op
  rw [row, Except.ok.injEq] at byRegion
  subst byRegion
  unfold debugWord
  cases h : region e with
  | rom => simp only [exec_mrdRom, execMrdRom, same]
  | loram => simp only [exec_mrdLoram, execMrdLoram, same]
  | periph => simp only [exec_mrdPeriph, execMrdPeriph, same]
  | cart => simp only [exec_mrdCart, execMrdCart, same]
  | pad => exact exec_mrdPad s e
  | hiram => simp only [exec_mrdHiram, execMrdHiram, same]
  | sound | gap => simp [h] at store
  | vdp | speech | grom =>
    simp only [h] at store
    split_ifs at store <;> simp at store

/-- Settles O45: one word answers both debug reads and the timed read of the even address. -/
theorem debugReads : Obligations.DebugReads := by
  rintro a s E rfl
  refine ⟨debugWord s (evenAddr a), exec_dbgRdw s a, ?_, debugWord_port s, fun i row store => ?_⟩
  · rw [exec_dbgRdb, execDbgRdb, debugByte_eq]
    rfl
  · exact ⟨_, exec_read_debugWord s (evenAddr_even a) row store, rfl⟩

/-! ### Settings and STATUS (R215 to R217, R225) -/

/-- Settles O40: each setting is one field of the decoder. -/
theorem settingsWrites : Obligations.SettingsWrites := by
  rintro v s r rfl
  exact ⟨exec_setRam32k s v, exec_setAms s v, exec_setGram s v⟩

/-- Settles O46: the text of R225 is made of the six elements alone. -/
theorem statusText : Obligations.StatusText := by
  intro s
  refine ⟨_, exec_status s, fun u gaddr romBank ramBank reg mode acc => ?_⟩
  rw [exec_status, execStatus, gaddr, romBank, ramBank, reg, mode, acc]
  rfl

end Sys2Proof.Machine
end

section
/-! The bus never fails (60_exceptions.md R241): the only transactions that raise are host operations, no key of the four
bus operations decodes to one of them, and every other transaction answers with the queue as it found it. -/

namespace Sys2Proof.Machine

/-! ### The transactions that can raise (R240) -/

/-- The loaders and RESTORE_STATE: the operations with a HostError of their own. -/
def canRaise : Instr → Bool
  | .loadRam .. | .loadGrom .. | .loadCart .. | .loadDsr .. | .restoreState _ => true
  | _ => false

theorem setRamByte_pending (s : State) (a : Word) (b : Byte) : (setRamByte s a b).pending = s.pending := by
  unfold setRamByte
  split_ifs <;> rfl

theorem ramWrite16_pending (s : State) (e d : Word) : (ramWrite16 s e d).pending = s.pending := by
  rw [ramWrite16, setRamByte_pending, setRamByte_pending]

theorem periphWrite_pending (s : State) (e d : Word) : (periphWrite s e d).pending = s.pending := by
  unfold periphWrite
  split_ifs <;> rfl

theorem normalWrite_pending (bit : CruBit) (v : Bool) (s : State) : (normalWrite bit v s).pending = s.pending := by
  obtain ⟨_, _, _, _, _, keeps⟩ := normalWrite_keeps bit v s
  rw [keeps]

theorem normalWrite_error (bit : CruBit) (v : Bool) (s : State) : (normalWrite bit v s).reply.error = none := by
  unfold normalWrite
  split_ifs <;> rfl

/-- A transaction that cannot raise answers a next state with no error and leaves the queue alone. -/
theorem exec_answers {i : Instr} (safe : canRaise i = false) (s : State) :
    ∃ u, exec i s = .next u ∧ u.pending = s.pending ∧ u.reply.error = none := by
  cases i with
  | loadRam | loadGrom | loadCart | loadDsr | restoreState => cases safe
  | mwrLoram a d => exact ⟨_, exec_mwrLoram s a d, ramWrite16_pending s _ d, rfl⟩
  | mwrHiram a d => exact ⟨_, exec_mwrHiram s a d, ramWrite16_pending s _ d, rfl⟩
  | mwrPeriph a d => exact ⟨_, exec_mwrPeriph s a d, periphWrite_pending s _ d, rfl⟩
  | cwrTExit bit v => exact ⟨_, exec_cwrTExit s bit v, normalWrite_pending bit v _, normalWrite_error bit v _⟩
  | crdTClk bit =>
    rw [exec_crdTClk, execCrdTClk]
    cases s.params.timerRead <;> exact ⟨_, rfl, rfl, rfl⟩
  | crdStored bit =>
    rw [exec_crdStored, execCrdStored]
    cases s.params.unlistedCruRead <;> exact ⟨_, rfl, rfl, rfl⟩
  | _ => exact ⟨_, rfl, rfl, rfl⟩

/-! ### What a bus key decodes to -/

/-- Every memory and CRU key has a row, and none of the rows of R97 and R98 can raise. -/
theorem decode_bus_ok {t : Txn} (h : t.key.toNat < 0x40000) : ∃ i, decode t = .ok i ∧ canRaise i = false := by
  have op : t.key.toNat / 0x10000 = 0 ∨ t.key.toNat / 0x10000 = 1 ∨ t.key.toNat / 0x10000 = 2 ∨
      t.key.toNat / 0x10000 = 3 := by omega
  obtain mrd | mwr | crd | cwr := op
  · refine ⟨_, (memoryKeyRows t _ rfl).1 mrd, ?_⟩
    cases region (evenAddr t.addr) with
    | vdp | speech | grom => dsimp only; split_ifs <;> rfl
    | _ => rfl
  · refine ⟨_, (memoryKeyRows t _ rfl).2 _ rfl mwr, ?_⟩
    cases region (evenAddr t.addr) with
    | vdp | speech | grom => dsimp only; split_ifs <;> rfl
    | _ => rfl
  · refine ⟨_, (cruKeyRows t _ rfl).1 crd, ?_⟩
    split_ifs <;> rfl
  · refine ⟨_, (cruKeyRows t _ rfl).2 _ rfl cwr, ?_⟩
    split_ifs <;> rfl

/-- A bus key is still a bus key when it is issued: TMODE reaches K[12] and no higher bit. -/
theorem issue_key_lt {t : Txn} (h : t.key.toNat < 0x40000) (m : Bool) : (issue t m).key.toNat < 0x40000 := by
  by_cases cru : t.key.toNat / 0x20000 = 1
  · have := bitNat_le m
    rw [issue_key_of_cru cru]
    omega
  · rwa [issue_of_not_cru cru]

theorem bitOperand_ok {mnemonic : String} {mk : Bool → Instr} {t : Txn} (h : t.scalar 0 < 2) :
    bitOperand mnemonic mk t = .ok (mk (t.scalar 0 == 1)) := by
  rw [bitOperand, bitArg, if_pos h]
  rfl

/-! ### The step -/

theorem step_answers {s : State} {t : Txn} {rest : List Txn} {i : Instr} (queued : s.pending = t :: rest)
    (row : decode (issue t s.cru.tmode) = .ok i) (safe : canRaise i = false) :
    ∃ u, step s = .next u ∧ u.pending = rest ∧ u.reply.error = none := by
  rw [step_pending queued, perform_ok row]
  exact exec_answers safe { s with pending := rest }

/-- Settles O9: each of the keys it names decodes, in either CRU mode, to a transaction that cannot raise. -/
theorem busNeverFaults : Obligations.BusNeverFaults := by
  intro s t rest queued key
  obtain bus | tick | ⟨vdpInt, bit⟩ := key
  · obtain ⟨i, row, safe⟩ := decode_bus_ok (issue_key_lt bus s.cru.tmode)
    exact step_answers queued row safe
  · have issued := issue_of_not_cru (t := t) (by omega) s.cru.tmode
    exact step_answers queued ((congrArg decode issued).trans (decode_id_tick tick)) rfl
  · have issued := issue_of_not_cru (t := t) (by omega) s.cru.tmode
    have row := (decode_id_vdpint vdpInt).trans (bitOperand_ok bit)
    exact step_answers queued ((congrArg decode issued).trans row) rfl

end Sys2Proof.Machine
end

section
/-! RESET and construction (70_reset_and_hazards.md R260 to R263): the banks of sixteen after a reset, one entry at a
time, and each unit after either kind of reset. Construction is a cold reset of its fresh stores, so both statements
read the same laws. -/

namespace Sys2Proof.Machine

/-! ### The banks of sixteen after a reset -/

theorem at16_replicate {α : Type} (x : α) (b : BitVec 4) : at16 (Vector.replicate 16 x) b = x :=
  Vector.getElem_replicate b.isLt

/-- AMS_REG[i] = i, so that either AMS table gives the same pages. -/
theorem at16_identityRegs (b : BitVec 4) : at16 identityRegs b = BitVec.ofNat 16 b.toNat := by
  revert b
  decide

/-- GPREF of R260: every latch is cleared. -/
theorem at16_resetGsq_gpref (g : GromSeq) (b : BitVec 4) : at16 (resetGsq g).gpref b = 0 :=
  at16_replicate 0 b

/-- GPOP of R260: only base 0 keeps its flag. -/
theorem at16_resetGsq_gpop (g : GromSeq) (b : BitVec 4) :
    at16 (resetGsq g).gpop b = if b = 0 then at16 g.gpop 0 else false := by
  show at16 (put16 (Vector.replicate 16 false) 0 (at16 g.gpop 0)) b = _
  rw [at16_put16, at16_replicate]

/-- GROM of R260: only the console GROM, base 0 below 0x6000, is kept. -/
theorem read_resetGsq_grom (g : GromSeq) (b : BitVec 4) (x : Nat) :
    Memory.read (at16 (resetGsq g).grom b) x =
      if b = 0 ∧ x < 0x6000 then Memory.read (at16 g.grom 0) x else 0 := by
  show Memory.read (at16 (put16 (Vector.replicate 16 []) 0 (Memory.below (at16 g.grom 0) 0x6000)) b) x = _
  rw [at16_put16, at16_replicate, ite_and]
  split_ifs with base inside
  · rw [Memory.read_below, if_pos inside]
  · rw [Memory.read_below, if_neg inside]
  · rfl

/-! ### The units after either kind of reset -/

theorem resetDecoder_eq (kind : ResetKind) (d : Decoder) :
    resetDecoder kind d = { d with
      ram := [],
      dsrEn := if kind = .cold then false else d.dsrEn,
      dsrSel := if kind = .cold then 0 else d.dsrSel } := by
  cases kind <;> rfl

theorem resetBsc_eq (kind : ResetKind) (c : BankSwitch) :
    resetBsc kind c = {
      cartImg := if kind = .cold then ⟨0, []⟩ else c.cartImg,
      cartRam := [],
      cartInv := if kind = .cold then false else c.cartInv,
      cartRam6 := if kind = .cold then false else c.cartRam6,
      cartRam7 := if kind = .cold then false else c.cartRam7,
      cartPaged := if kind = .cold then false else c.cartPaged,
      romBank := 0,
      ramBank := 0 } := by
  cases kind <;> rfl

/-! ### RESET (R260) -/

/-- Settles O34: the two kinds differ in the decoder and the cartridge window only, and the banks of sixteen follow the
laws above. -/
theorem resetClears : Obligations.ResetClears := by
  intro kind s
  refine ⟨(resetGsq s.gsq).grom, (resetGsq s.gsq).gpref, identityRegs, (resetGsq s.gsq).gpop, ?_, fun b => ?_⟩
  · rw [exec_reset, execReset, resetBlock, resetDecoder_eq, resetBsc_eq]
    rfl
  · exact ⟨at16_identityRegs b, at16_resetGsq_gpref s.gsq b, at16_resetGsq_gpop s.gsq b,
      read_resetGsq_grom s.gsq b⟩

/-! ### Construction (R262) -/

/-- An image that fits in a store, cut to the store's size, reads as the image padded with 0x00. -/
theorem read_below_ofBytes {bytes : List Byte} {size : Nat} (fits : bytes.length ≤ size) (x : Nat) :
    Memory.read (Memory.below (Memory.ofBytes 0 bytes) size) x = bytes.getD x 0 := by
  rw [Memory.read_below, Memory.read_ofBytes, if_pos (Nat.zero_le x), Nat.sub_zero]
  split_ifs with inside
  · rfl
  · exact (List.getD_eq_default bytes 0 (by omega)).symm

section

variable (rom grom : List Byte) (ram32k ams gram : Bool) (p : Params)

theorem read_construct_rom (fits : rom.length ≤ 0x2000) (x : Nat) :
    Memory.read (construct rom grom ram32k ams gram p).decoder.rom x = rom.getD x 0 :=
  read_below_ofBytes fits x

theorem at16_construct_dsrImg (b : BitVec 4) :
    at16 (construct rom grom ram32k ams gram p).decoder.dsrImg b = ⟨0, []⟩ :=
  at16_replicate Image.empty b

theorem at16_construct_gpop (b : BitVec 4) :
    at16 (construct rom grom ram32k ams gram p).gsq.gpop b = decide (b = 0) := by
  have fresh : at16 (freshBlock rom grom ram32k ams gram).gsq.gpop 0 = true := at16_put16 _ 0 0 true
  calc at16 (resetGsq (freshBlock rom grom ram32k ams gram).gsq).gpop b
      = if b = 0 then true else false := by rw [at16_resetGsq_gpop, fresh]
    _ = decide (b = 0) := by simp

/-- The console GROM image lies below 0x6000, where the cold reset of construction keeps it. -/
theorem read_construct_grom (fits : grom.length ≤ 0x6000) (b : BitVec 4) (x : Nat) :
    Memory.read (at16 (construct rom grom ram32k ams gram p).gsq.grom b) x = if b = 0 then grom.getD x 0 else 0 := by
  have fresh : at16 (freshBlock rom grom ram32k ams gram).gsq.grom 0 = Memory.ofBytes 0 grom := at16_put16 _ 0 0 _
  calc Memory.read (at16 (resetGsq (freshBlock rom grom ram32k ams gram).gsq).grom b) x
      = if b = 0 then Memory.read (Memory.below (Memory.ofBytes 0 grom) 0x6000) x else 0 := by
        rw [read_resetGsq_grom, fresh, ite_and, Memory.read_below]
    _ = if b = 0 then grom.getD x 0 else 0 := by rw [read_below_ofBytes fits]

end

/-- Settles O35: the six stores whose contents the rule names entry by entry follow the laws above, and the rest of the
constructed state is literal. -/
theorem constructionState : Obligations.ConstructionState := by
  intro rom grom ram32k ams gram p romFits gromFits
  refine ⟨_, _, _, _, _, _, rfl, read_construct_rom rom grom ram32k ams gram p romFits, fun b => ?_⟩
  exact ⟨at16_construct_dsrImg rom grom ram32k ams gram p b, at16_identityRegs b,
    at16_resetGsq_gpref (freshBlock rom grom ram32k ams gram).gsq b, at16_construct_gpop rom grom ram32k ams gram p b,
    read_construct_grom rom grom ram32k ams gram p gromFits b⟩

end Sys2Proof.Machine
end

section
/-! The encoder against the decoder (30_encoding.md R93, R97 to R99): the key of every well-formed instruction meets the
premise of its own row's law, and its operands are read back from beside the key. -/

namespace Sys2Proof.Machine

/-! ### Memory rows (R97) -/

section
variable {a d : Word} {lo hi : Nat}

theorem txnRead_key (a : Word) : (txnRead a).key.toNat = a.toNat :=
  (memKey_toNat (by omega) a).trans (by omega)

theorem txnWrite_key (a d : Word) : (txnWrite a d).key.toNat = 0x10000 + a.toNat :=
  (memKey_toNat (by omega) a).trans (by omega)

/-- A read row gives back the even address its key spells. -/
theorem decode_txnRead {mk : Word → Instr} (wf : evenIn lo hi a = true)
    (row : (txnRead a).key.toNat = a.toNat → lo ≤ a.toNat → a.toNat ≤ hi →
      decode (txnRead a) = .ok (mk (evenAddr (txnRead a).addr))) : decode (txnRead a) = .ok (mk a) := by
  obtain ⟨even, low, high⟩ := evenIn_iff.1 wf
  have addr : (txnRead a).addr = a := memKey_addr (by omega) a _ _ _
  rw [row (txnRead_key a) low high, addr, evenAddr_of_even even]

/-- A write row gives back the even address and the word. -/
theorem decode_txnWrite {mk : Word → Word → Instr} (wf : evenIn lo hi a = true)
    (row : (txnWrite a d).key.toNat = 0x10000 + a.toNat → lo ≤ a.toNat → a.toNat ≤ hi →
      decode (txnWrite a d) = .ok (mk (evenAddr (txnWrite a d).addr) (BitVec.ofNat 16 ((txnWrite a d).scalar 0)))) :
    decode (txnWrite a d) = .ok (mk a d) := by
  obtain ⟨even, low, high⟩ := evenIn_iff.1 wf
  have addr : (txnWrite a d).addr = a := memKey_addr (by omega) a _ _ _
  have data : BitVec.ofNat 16 ((txnWrite a d).scalar 0) = d :=
    BitVec.eq_of_toNat_eq (by rw [BitVec.toNat_ofNat]; exact Nat.mod_eq_of_lt d.isLt)
  rw [row (txnWrite_key a d) low high, addr, data, evenAddr_of_even even]

/-- The rows of a port's data address. -/
theorem evenIn_of_dataPort (wf : (evenIn lo hi a && !portA1 a) = true) :
    evenIn lo hi a = true ∧ a.toNat / 2 % 2 = 0 := by
  obtain ⟨even, port⟩ := Bool.and_eq_true_iff.1 wf
  have a1 : ¬ a.toNat / 2 % 2 = 1 := by simpa [portA1] using port
  exact ⟨even, by omega⟩

/-- The rows of a port's other address. -/
theorem evenIn_of_addrPort (wf : (evenIn lo hi a && portA1 a) = true) :
    evenIn lo hi a = true ∧ a.toNat / 2 % 2 = 1 := by
  obtain ⟨even, port⟩ := Bool.and_eq_true_iff.1 wf
  exact ⟨even, portA1_iff.1 port⟩

end

/-! ### CRU rows (R98) -/

section
variable {m v : Bool} {bit : CruBit}

theorem txnCruRead_key (m : Bool) (bit : CruBit) :
    (txnCruRead m bit).key.toNat = 0x20000 + bitNat m * 0x1000 + bit.toNat :=
  cruKey_toNat (by omega) m bit

theorem txnCruWrite_key (m : Bool) (bit : CruBit) (v : Bool) :
    (txnCruWrite m bit v).key.toNat = 0x30000 + bitNat m * 0x1000 + bit.toNat :=
  cruKey_toNat (by omega) m bit

theorem txnCruRead_cruBit (m : Bool) (bit : CruBit) : (txnCruRead m bit).cruBit = bit :=
  cruKey_bit (by omega) m bit _ _ _

theorem txnCruWrite_cruBit (m : Bool) (bit : CruBit) (v : Bool) : (txnCruWrite m bit v).cruBit = bit :=
  cruKey_bit (by omega) m bit _ _ _

theorem txnCruWrite_cruData (m : Bool) (bit : CruBit) (v : Bool) : (txnCruWrite m bit v).cruData = v := by
  cases v <;> rfl

/-- A read row of more than one bit gives back its bit. -/
theorem decode_txnCruRead {mk : CruBit → Instr} (row : decode (txnCruRead m bit) = .ok (mk (txnCruRead m bit).cruBit)) :
    decode (txnCruRead m bit) = .ok (mk bit) := by
  rw [row, txnCruRead_cruBit]

/-- A write row of one bit gives back its value. -/
theorem decode_txnCruWrite_fixed {mk : Bool → Instr}
    (row : decode (txnCruWrite m bit v) = .ok (mk (txnCruWrite m bit v).cruData)) :
    decode (txnCruWrite m bit v) = .ok (mk v) := by
  rw [row, txnCruWrite_cruData]

/-- A write row of more than one bit gives back its bit and its value. -/
theorem decode_txnCruWrite {mk : CruBit → Bool → Instr}
    (row : decode (txnCruWrite m bit v) = .ok (mk (txnCruWrite m bit v).cruBit (txnCruWrite m bit v).cruData)) :
    decode (txnCruWrite m bit v) = .ok (mk bit v) := by
  rw [row, txnCruWrite_cruBit, txnCruWrite_cruData]

end

/-! ### Sideband rows (R99): an operand in its type is read back -/

section
variable {mnemonic : String} {t : Txn} {i : Nat}

theorem bitArg_toNat {v : Bool} (h : t.scalar i = v.toNat) : bitArg mnemonic t i = .ok v := by
  rw [bitArg, h]
  cases v <;> rfl

theorem fieldArg_toNat {n : Nat} {x : BitVec n} (h : t.scalar i = x.toNat) : fieldArg mnemonic n t i = .ok x := by
  rw [fieldArg, h, if_pos x.isLt, BitVec.ofNat_toNat, BitVec.setWidth_eq]

theorem bytesArg_toNat {bs : List Byte} (h : t.bytes = bs.map BitVec.toNat) : bytesArg mnemonic t = .ok bs := by
  have small : (bs.map BitVec.toNat).all (· < 256) = true := by
    simpa using fun b (_ : b ∈ bs) => b.isLt
  rw [bytesArg, h, if_pos small, List.map_map]
  simp [Function.comp_def]

theorem bitOperand_toNat {mk : Bool → Instr} {v : Bool} (h : t.scalar 0 = v.toNat) :
    bitOperand mnemonic mk t = .ok (mk v) := by
  rw [bitOperand, bitArg_toNat h]
  rfl

theorem addrOperand_toNat {mk : Word → Instr} {a : Word} (h : t.scalar 0 = a.toNat) :
    addrOperand mnemonic mk t = .ok (mk a) := by
  rw [addrOperand, fieldArg_toNat h]
  rfl

theorem readReset_toNat {warm : Bool} (h : t.scalar 0 = warm.toNat) :
    readReset t = .ok (.reset (if warm then .warm else .cold)) := by
  rw [readReset, bitArg_toNat h]
  rfl

theorem readLoadRam_toNat {a : Word} {bs : List Byte} (ha : t.scalar 0 = a.toNat)
    (hbs : t.bytes = bs.map BitVec.toNat) : readLoadRam t = .ok (.loadRam a bs) := by
  rw [readLoadRam, fieldArg_toNat ha, bytesArg_toNat hbs]
  rfl

theorem readLoadGrom_toNat {b : BitVec 4} {o : Word} {bs : List Byte} (hb : t.scalar 0 = b.toNat)
    (ho : t.scalar 1 = o.toNat) (hbs : t.bytes = bs.map BitVec.toNat) : readLoadGrom t = .ok (.loadGrom b o bs) := by
  rw [readLoadGrom, fieldArg_toNat hb, fieldArg_toNat ho, bytesArg_toNat hbs]
  rfl

theorem readLoadCart_toNat {bs : List Byte} {inv ram6 ram7 paged : Bool} (hbs : t.bytes = bs.map BitVec.toNat)
    (h0 : t.scalar 0 = inv.toNat) (h1 : t.scalar 1 = ram6.toNat) (h2 : t.scalar 2 = ram7.toNat)
    (h3 : t.scalar 3 = paged.toNat) : readLoadCart t = .ok (.loadCart bs inv ram6 ram7 paged) := by
  rw [readLoadCart, bytesArg_toNat hbs, bitArg_toNat h0, bitArg_toNat h1, bitArg_toNat h2, bitArg_toNat h3]
  rfl

theorem readLoadDsr_toNat {slot : BitVec 4} {bs : List Byte} (hs : t.scalar 0 = slot.toNat)
    (hbs : t.bytes = bs.map BitVec.toNat) : readLoadDsr t = .ok (.loadDsr slot bs) := by
  rw [readLoadDsr, fieldArg_toNat hs, bytesArg_toNat hbs]
  rfl

end

theorem bitNat_eq_toNat (b : Bool) : bitNat b = b.toNat := by cases b <;> rfl

/-- A sideband key carries its id. -/
theorem sidebandKey_id {id : Nat} (h : id < 64) : (sidebandKey id).toNat / 0x1000 = 0x40 + id := by
  rw [sidebandKey_toNat h]
  omega

/-! ### Every row -/

/-- Settles O2: constructor by constructor, the row's law at the instruction's own key. -/
theorem decodeOfEncode : Obligations.DecodeOfEncode := by
  intro i wf
  cases i with
  | mrdRom a => exact decode_txnRead wf fun _ _ _ => decode_mrdRom (by omega)
  | mrdLoram a => exact decode_txnRead wf fun _ _ _ => decode_mrdLoram (by omega)
  | mrdPeriph a => exact decode_txnRead wf fun _ _ _ => decode_mrdPeriph (by omega)
  | mrdCart a => exact decode_txnRead wf fun _ _ _ => decode_mrdCart (by omega)
  | mrdPad a => exact decode_txnRead wf fun _ _ _ => decode_mrdPad (by omega)
  | mrdSound a => exact decode_txnRead wf fun _ _ _ => decode_mrdSound (by omega)
  | mrdGap a => exact decode_txnRead wf fun _ _ _ => decode_mrdGap (by omega)
  | mrdVdpData a =>
    obtain ⟨even, a1⟩ := evenIn_of_dataPort wf
    exact decode_txnRead even fun _ _ _ => decode_mrdVdpData (by omega) (by omega)
  | mrdVdpStat a =>
    obtain ⟨even, a1⟩ := evenIn_of_addrPort wf
    exact decode_txnRead even fun _ _ _ => decode_mrdVdpStat (by omega) (by omega)
  | mrdVdpWp a => exact decode_txnRead wf fun _ _ _ => decode_mrdVdpWp (by omega)
  | mrdSpch a => exact decode_txnRead wf fun _ _ _ => decode_mrdSpch (by omega)
  | mrdSpchWp a => exact decode_txnRead wf fun _ _ _ => decode_mrdSpchWp (by omega)
  | mrdGrData a =>
    obtain ⟨even, a1⟩ := evenIn_of_dataPort wf
    exact decode_txnRead even fun _ _ _ => decode_mrdGrData (by omega) (by omega)
  | mrdGrAddr a =>
    obtain ⟨even, a1⟩ := evenIn_of_addrPort wf
    exact decode_txnRead even fun _ _ _ => decode_mrdGrAddr (by omega) (by omega)
  | mrdGrWp a => exact decode_txnRead wf fun _ _ _ => decode_mrdGrWp (by omega)
  | mrdHiram a => exact decode_txnRead wf fun _ _ _ => decode_mrdHiram (by omega) (by omega)
  | mwrRom a d => exact decode_txnWrite wf fun _ _ _ => decode_mwrRom (by omega)
  | mwrLoram a d => exact decode_txnWrite wf fun _ _ _ => decode_mwrLoram (by omega)
  | mwrPeriph a d => exact decode_txnWrite wf fun _ _ _ => decode_mwrPeriph (by omega)
  | mwrCart a d => exact decode_txnWrite wf fun _ _ _ => decode_mwrCart (by omega)
  | mwrPad a d => exact decode_txnWrite wf fun _ _ _ => decode_mwrPad (by omega)
  | mwrSound a d => exact decode_txnWrite wf fun _ _ _ => decode_mwrSound (by omega)
  | mwrGap a d => exact decode_txnWrite wf fun _ _ _ => decode_mwrGap (by omega)
  | mwrVdpRp a d => exact decode_txnWrite wf fun _ _ _ => decode_mwrVdpRp (by omega)
  | mwrVdpData a d =>
    obtain ⟨even, a1⟩ := evenIn_of_dataPort wf
    exact decode_txnWrite even fun _ _ _ => decode_mwrVdpData (by omega) (by omega)
  | mwrVdpAddr a d =>
    obtain ⟨even, a1⟩ := evenIn_of_addrPort wf
    exact decode_txnWrite even fun _ _ _ => decode_mwrVdpAddr (by omega) (by omega)
  | mwrSpchRp a d => exact decode_txnWrite wf fun _ _ _ => decode_mwrSpchRp (by omega)
  | mwrSpch a d => exact decode_txnWrite wf fun _ _ _ => decode_mwrSpch (by omega)
  | mwrGrRp a d => exact decode_txnWrite wf fun _ _ _ => decode_mwrGrRp (by omega)
  | mwrGrData a d =>
    obtain ⟨even, a1⟩ := evenIn_of_dataPort wf
    exact decode_txnWrite even fun _ _ _ => decode_mwrGrData (by omega) (by omega)
  | mwrGrAddr a d =>
    obtain ⟨even, a1⟩ := evenIn_of_addrPort wf
    exact decode_txnWrite even fun _ _ _ => decode_mwrGrAddr (by omega) (by omega)
  | mwrHiram a d => exact decode_txnWrite wf fun _ _ _ => decode_mwrHiram (by omega) (by omega)
  | crdMode => exact decode_crdMode (by decide) (by decide)
  | crdTInt => exact decode_crdTInt (by decide) (by decide)
  | crdTClk bit =>
    obtain ⟨lo, hi⟩ := bitIn_iff.1 wf
    have key : _ = 0x20000 + 1 * 0x1000 + _ := txnCruRead_key true bit
    exact decode_txnCruRead (decode_crdTClk (by omega) (by omega) (by omega))
  | crdNVdp => exact decode_crdNVdp (by decide) (by decide)
  | crdNKbd bit =>
    obtain ⟨lo, hi⟩ := bitIn_iff.1 wf
    have key : _ = 0x20000 + 0 * 0x1000 + _ := txnCruRead_key false bit
    exact decode_txnCruRead (decode_crdNKbd (by omega) (by omega) (by omega))
  | crdTapeIn => exact decode_crdTapeIn (by decide) (by decide)
  | crdStored bit =>
    have bound := bit.isLt
    simp only [Instr.wf, Bool.or_eq_true, bitIn_iff] at wf
    have key : _ = 0x20000 + 0 * 0x1000 + _ := txnCruRead_key false bit
    exact decode_txnCruRead (decode_crdStored (by omega) (by omega) (by omega) (by omega))
  | cwrMode v =>
    have key : _ = 0x30000 + 0 * 0x1000 + 0 := txnCruWrite_key false 0 v
    exact decode_txnCruWrite_fixed (decode_cwrMode (by omega) (by omega))
  | cwrTClk bit v =>
    obtain ⟨lo, hi⟩ := bitIn_iff.1 wf
    have key : _ = 0x30000 + 1 * 0x1000 + _ := txnCruWrite_key true bit v
    exact decode_txnCruWrite (decode_cwrTClk (by omega) (by omega) (by omega))
  | cwrTB15 v =>
    have key : _ = 0x30000 + 1 * 0x1000 + 15 := txnCruWrite_key true 15 v
    exact decode_txnCruWrite_fixed (decode_cwrTB15 (by omega) (by omega))
  | cwrTExit bit v =>
    obtain ⟨lo, hi⟩ := bitIn_iff.1 wf
    have key : _ = 0x30000 + 1 * 0x1000 + _ := txnCruWrite_key true bit v
    exact decode_txnCruWrite (decode_cwrTExit (by omega) (by omega))
  | cwrNAck v =>
    have key : _ = 0x30000 + 0 * 0x1000 + 3 := txnCruWrite_key false 3 v
    exact decode_txnCruWrite_fixed (decode_cwrNAck (by omega) (by omega))
  | cwrNMotor v =>
    have key : _ = 0x30000 + 0 * 0x1000 + 22 := txnCruWrite_key false 22 v
    exact decode_txnCruWrite_fixed (decode_cwrNMotor (by omega) (by omega))
  | cwrNTapeOut v =>
    have key : _ = 0x30000 + 0 * 0x1000 + 25 := txnCruWrite_key false 25 v
    exact decode_txnCruWrite_fixed (decode_cwrNTapeOut (by omega) (by omega))
  | cwrDsr bit v =>
    obtain ⟨lo, hi⟩ := bitIn_iff.1 wf
    have key : _ = 0x30000 + 0 * 0x1000 + _ := txnCruWrite_key false bit v
    exact decode_txnCruWrite (decode_cwrDsr (by omega) (by omega) (by omega))
  | cwrNStore bit v =>
    simp only [Instr.wf, Bool.or_eq_true, bitIn_iff] at wf
    have key : _ = 0x30000 + 0 * 0x1000 + _ := txnCruWrite_key false bit v
    exact decode_txnCruWrite (decode_cwrNStore (by omega) (by omega) (by omega))
  | tick delta => exact decode_id_tick (sidebandKey_id (by omega))
  | vdpInt level =>
    exact (decode_id_vdpint (sidebandKey_id (by omega))).trans (bitOperand_toNat (bitNat_eq_toNat level))
  | reset kind =>
    have row := readReset_toNat (t := encode (.reset kind)) (bitNat_eq_toNat (kind == .warm))
    refine (decode_id_reset (sidebandKey_id (by omega))).trans (row.trans ?_)
    cases kind <;> rfl
  | loadRam a bytes => exact (decode_id_loadRam (sidebandKey_id (by omega))).trans (readLoadRam_toNat rfl rfl)
  | loadGrom base offset bytes =>
    exact (decode_id_loadGrom (sidebandKey_id (by omega))).trans (readLoadGrom_toNat rfl rfl rfl)
  | loadCart bytes inv ram6 ram7 paged =>
    exact (decode_id_loadCart (sidebandKey_id (by omega))).trans (readLoadCart_toNat rfl (bitNat_eq_toNat inv)
      (bitNat_eq_toNat ram6) (bitNat_eq_toNat ram7) (bitNat_eq_toNat paged))
  | loadDsr slot bytes => exact (decode_id_loadDsr (sidebandKey_id (by omega))).trans (readLoadDsr_toNat rfl rfl)
  | setRam32k v => exact (decode_id_setRam32K (sidebandKey_id (by omega))).trans (bitOperand_toNat (bitNat_eq_toNat v))
  | setAms v => exact (decode_id_setAms (sidebandKey_id (by omega))).trans (bitOperand_toNat (bitNat_eq_toNat v))
  | setGram v => exact (decode_id_setGram (sidebandKey_id (by omega))).trans (bitOperand_toNat (bitNat_eq_toNat v))
  | getState => exact decode_id_getState (sidebandKey_id (by omega))
  | restoreState snap => exact decode_id_restoreState (sidebandKey_id (by omega))
  | dbgRdb a => exact (decode_id_dbgRdb (sidebandKey_id (by omega))).trans (addrOperand_toNat rfl)
  | dbgRdw a => exact (decode_id_dbgRdw (sidebandKey_id (by omega))).trans (addrOperand_toNat rfl)
  | status => exact decode_id_status (sidebandKey_id (by omega))

end Sys2Proof.Machine
end

section
/-! What the decoder answers and what it refuses (30_encoding.md R99, 60_exceptions.md R242): each sideband reader fails
exactly on an operand outside its type, and whatever decodes is well formed. -/

namespace Sys2Proof.Machine

/-! ### The rows of the sideband keys (R99) -/

/-- Settles O5: every id is one row's law, and its reader gives back operands that lie in their types. -/
theorem sidebandKeyRows : Obligations.SidebandKeyRows := by
  intro t id key
  have bound := key_lt t.key
  have field : t.key.toNat / 0x1000 = 0x40 + id := by omega
  refine ⟨?_, ?_, ?_, ?_, ?_, ?_, ?_, ?_, ?_, ?_, ?_, ?_, ?_, ?_, ?_, ?_⟩
  · rintro rfl
    exact decode_id_tick field
  · rintro rfl v h
    exact (decode_id_vdpint field).trans (bitOperand_toNat h)
  · rintro rfl
    have row := decode_id_reset field
    exact ⟨fun cold => row.trans (readReset_toNat (warm := false) cold),
      fun warm => row.trans (readReset_toNat (warm := true) warm)⟩
  · rintro rfl a bs ha hbs
    exact (decode_id_loadRam field).trans (readLoadRam_toNat ha hbs)
  · rintro rfl b o bs hb ho hbs
    exact (decode_id_loadGrom field).trans (readLoadGrom_toNat hb ho hbs)
  · rintro rfl bs inv ram6 ram7 paged hbs h0 h1 h2 h3
    exact (decode_id_loadCart field).trans (readLoadCart_toNat hbs h0 h1 h2 h3)
  · rintro rfl n bs hn hbs
    exact (decode_id_loadDsr field).trans (readLoadDsr_toNat hn hbs)
  · rintro rfl v h
    exact (decode_id_setRam32K field).trans (bitOperand_toNat h)
  · rintro rfl v h
    exact (decode_id_setAms field).trans (bitOperand_toNat h)
  · rintro rfl v h
    exact (decode_id_setGram field).trans (bitOperand_toNat h)
  · rintro rfl
    exact decode_id_getState field
  · rintro rfl
    exact decode_id_restoreState field
  · rintro rfl a h
    exact (decode_id_dbgRdb field).trans (addrOperand_toNat h)
  · rintro rfl a h
    exact (decode_id_dbgRdw field).trans (addrOperand_toNat h)
  · rintro rfl
    exact decode_id_status field
  · intro unused
    rw [decode_id_unused (by omega)]
    congr 2
    omega

/-! ### What a reader refuses -/

/-- A reader of operands: it fails exactly where `bad` holds, and what it answers is good. -/
def Reads {α : Type} (r : Except DecodeError α) (good : α → Prop) (bad : Prop) : Prop :=
  match r with
  | .ok v => good v ∧ ¬ bad
  | .error _ => bad

section
variable {α β : Type} {good : α → Prop} {P Q : Prop}

theorem Reads.of_iff {r : Except DecodeError α} (h : Reads r good P) (same : P ↔ Q) : Reads r good Q :=
  propext same ▸ h

theorem reads_ok {v : α} (h : good v) : Reads (.ok v) good False := ⟨h, id⟩

theorem reads_ite {v : α} {e : DecodeError} [Decidable P] (h : good v) :
    Reads (if P then .ok v else .error e) good (¬ P) := by
  split_ifs with hp
  · exact ⟨h, not_not_intro hp⟩
  · exact hp

/-- Two readers one after the other fail where either of them does. -/
theorem Reads.bind {x : Except DecodeError β} {f : β → Except DecodeError α} (first : Reads x (fun _ => True) P)
    (second : ∀ v, Reads (f v) good Q) : Reads (x >>= f) good (P ∨ Q) := by
  cases x with
  | error e => exact Or.inl first
  | ok v =>
    obtain ⟨-, notP⟩ := first
    exact (second v).of_iff (by simp [notP])

theorem Reads.exists_error_iff {r : Except DecodeError α} (h : Reads r good P) : (∃ e, r = .error e) ↔ P := by
  cases r with
  | ok v => simpa [Reads] using h.2
  | error e => simpa [Reads] using h

theorem Reads.good_of_ok {r : Except DecodeError α} (h : Reads r good P) {v : α} (ok : r = .ok v) : good v := by
  subst ok
  exact h.1

end

section
variable (m : String) (t : Txn) (i : Nat)

theorem reads_bitArg : Reads (bitArg m t i) (fun _ => True) (2 ≤ t.scalar i) :=
  (reads_ite trivial).of_iff Nat.not_lt

theorem reads_fieldArg (n : Nat) : Reads (fieldArg m n t i) (fun _ => True) (2 ^ n ≤ t.scalar i) :=
  (reads_ite trivial).of_iff Nat.not_lt

theorem reads_bytesArg : Reads (bytesArg m t) (fun _ => True) (∃ b ∈ t.bytes, 256 ≤ b) :=
  (reads_ite trivial).of_iff (by simp)

theorem reads_bitOperand {mk : Bool → Instr} (wf : ∀ v, (mk v).wf = true) :
    Reads (bitOperand m mk t) (fun i => i.wf = true) (2 ≤ t.scalar 0) :=
  ((reads_bitArg m t 0).bind fun v => reads_ok (wf v)).of_iff (iff_of_eq (or_false _))

theorem reads_addrOperand {mk : Word → Instr} (wf : ∀ a, (mk a).wf = true) :
    Reads (addrOperand m mk t) (fun i => i.wf = true) (0x10000 ≤ t.scalar 0) :=
  ((reads_fieldArg m t 0 16).bind fun a => reads_ok (wf a)).of_iff (iff_of_eq (or_false _))

theorem reads_readReset : Reads (readReset t) (fun i => i.wf = true) (2 ≤ t.scalar 0 ∨ False) :=
  (reads_bitArg _ t 0).bind fun _ => reads_ok rfl

theorem reads_readLoadRam :
    Reads (readLoadRam t) (fun i => i.wf = true) (0x10000 ≤ t.scalar 0 ∨ (∃ b ∈ t.bytes, 256 ≤ b) ∨ False) :=
  (reads_fieldArg _ t 0 16).bind fun _ => (reads_bytesArg _ t).bind fun _ => reads_ok rfl

theorem reads_readLoadGrom :
    Reads (readLoadGrom t) (fun i => i.wf = true)
      (16 ≤ t.scalar 0 ∨ 0x10000 ≤ t.scalar 1 ∨ (∃ b ∈ t.bytes, 256 ≤ b) ∨ False) :=
  (reads_fieldArg _ t 0 4).bind fun _ => (reads_fieldArg _ t 1 16).bind fun _ =>
    (reads_bytesArg _ t).bind fun _ => reads_ok rfl

theorem reads_readLoadCart :
    Reads (readLoadCart t) (fun i => i.wf = true)
      ((∃ b ∈ t.bytes, 256 ≤ b) ∨ 2 ≤ t.scalar 0 ∨ 2 ≤ t.scalar 1 ∨ 2 ≤ t.scalar 2 ∨ 2 ≤ t.scalar 3 ∨ False) :=
  (reads_bytesArg _ t).bind fun _ => (reads_bitArg _ t 0).bind fun _ => (reads_bitArg _ t 1).bind fun _ =>
    (reads_bitArg _ t 2).bind fun _ => (reads_bitArg _ t 3).bind fun _ => reads_ok rfl

theorem reads_readLoadDsr :
    Reads (readLoadDsr t) (fun i => i.wf = true) (16 ≤ t.scalar 0 ∨ (∃ b ∈ t.bytes, 256 ≤ b) ∨ False) :=
  (reads_fieldArg _ t 0 4).bind fun _ => (reads_bytesArg _ t).bind fun _ => reads_ok rfl

end

/-- A sideband transaction with no meaning (R242): an id from 15 on, or an operand outside the type R99 gives its row. -/
def Meaningless (t : Txn) (id : Nat) : Prop :=
  15 ≤ id ∨
  (id ∈ [1, 2, 7, 8, 9] ∧ 2 ≤ t.scalar 0) ∨
  (id ∈ [3, 12, 13] ∧ 0x10000 ≤ t.scalar 0) ∨
  (id ∈ [4, 6] ∧ 16 ≤ t.scalar 0) ∨
  (id = 4 ∧ 0x10000 ≤ t.scalar 1) ∨
  (id = 5 ∧ (2 ≤ t.scalar 0 ∨ 2 ≤ t.scalar 1 ∨ 2 ≤ t.scalar 2 ∨ 2 ≤ t.scalar 3)) ∨
  (id ∈ [3, 4, 5, 6] ∧ ∃ b ∈ t.bytes, 256 ≤ b)

/-- The decoder refuses exactly the meaningless sideband transactions, and answers well-formed instructions. -/
theorem reads_decode_sideband {t : Txn} {id : Nat} (field : t.key.toNat / 0x1000 = 0x40 + id) :
    Reads (decode t) (fun i => i.wf = true) (Meaningless t id) := by
  have cover : id = 0 ∨ id = 1 ∨ id = 2 ∨ id = 3 ∨ id = 4 ∨ id = 5 ∨ id = 6 ∨ id = 7 ∨ id = 8 ∨ id = 9 ∨ id = 10 ∨
      id = 11 ∨ id = 12 ∨ id = 13 ∨ id = 14 ∨ 15 ≤ id := by omega
  obtain rfl | rfl | rfl | rfl | rfl | rfl | rfl | rfl | rfl | rfl | rfl | rfl | rfl | rfl | rfl | unused := cover
  · rw [decode_id_tick field]
    exact (reads_ok rfl).of_iff (by simp [Meaningless])
  · rw [decode_id_vdpint field]
    exact (reads_bitOperand _ t fun _ => rfl).of_iff (by simp [Meaningless])
  · rw [decode_id_reset field]
    exact (reads_readReset t).of_iff (by simp [Meaningless])
  · rw [decode_id_loadRam field]
    exact (reads_readLoadRam t).of_iff (by simp [Meaningless])
  · rw [decode_id_loadGrom field]
    exact (reads_readLoadGrom t).of_iff (by simp [Meaningless])
  · rw [decode_id_loadCart field]
    exact (reads_readLoadCart t).of_iff (by simp [Meaningless, or_comm, or_assoc])
  · rw [decode_id_loadDsr field]
    exact (reads_readLoadDsr t).of_iff (by simp [Meaningless])
  · rw [decode_id_setRam32K field]
    exact (reads_bitOperand _ t fun _ => rfl).of_iff (by simp [Meaningless])
  · rw [decode_id_setAms field]
    exact (reads_bitOperand _ t fun _ => rfl).of_iff (by simp [Meaningless])
  · rw [decode_id_setGram field]
    exact (reads_bitOperand _ t fun _ => rfl).of_iff (by simp [Meaningless])
  · rw [decode_id_getState field]
    exact (reads_ok rfl).of_iff (by simp [Meaningless])
  · rw [decode_id_restoreState field]
    exact (reads_ok rfl).of_iff (by simp [Meaningless])
  · rw [decode_id_dbgRdb field]
    exact (reads_addrOperand _ t fun _ => rfl).of_iff (by simp [Meaningless])
  · rw [decode_id_dbgRdw field]
    exact (reads_addrOperand _ t fun _ => rfl).of_iff (by simp [Meaningless])
  · rw [decode_id_status field]
    exact (reads_ok rfl).of_iff (by simp [Meaningless])
  · rw [decode_id_unused (by omega)]
    exact Or.inl unused

/-! ### Whatever decodes is well formed (R97 to R99) -/

/-- A10 of an even address, as the ranges of the port rows have it. -/
theorem A10_iff (a : Word) : a.getLsbD 10 = true ↔ a.toNat / 0x400 % 2 = 1 := by
  rw [getLsbD_eq, decide_eq_true_iff]
  rfl

theorem portA1_eq (a : Word) : portA1 a = a.getLsbD 1 := by
  rw [getLsbD_eq, portA1, beq_eq_decide]
  rfl

/-- The two ports of a region are told apart by A10. -/
theorem wf_by_A10 {e : Word} {i j : Instr} (one : e.toNat / 0x400 % 2 = 1 → i.wf = true)
    (zero : e.toNat / 0x400 % 2 = 0 → j.wf = true) : (if e.getLsbD 10 then i else j).wf = true := by
  simp only [A10_iff]
  split
  next h => exact one h
  next h => exact zero (by omega)

/-- The data address of a port is told apart from the other by A1. -/
theorem wf_by_A1 {e : Word} {i j : Instr} {lo hi : Nat} (one : i.wf = (evenIn lo hi e && portA1 e))
    (zero : j.wf = (evenIn lo hi e && !portA1 e)) (even : evenIn lo hi e = true) :
    (if e.getLsbD 1 then i else j).wf = true := by
  rw [← portA1_eq]
  split
  next h => rw [one, even, h]; rfl
  next h => rw [zero, even, Bool.eq_false_iff.2 h]; rfl

theorem wf_of_decode_mem {t : Txn} (h : t.key.toNat < 0x20000) {i : Instr} (row : decode t = .ok i) : i.wf = true := by
  have even := evenAddr_even t.addr
  by_cases read : t.key.toNat / 0x10000 = 0
  · rw [(memoryKeyRows t _ rfl).1 read, Except.ok.injEq] at row
    subst row
    obtain ⟨r, a⟩ | ⟨r, a⟩ | ⟨r, a⟩ | ⟨r, a⟩ | ⟨r, a⟩ | ⟨r, a⟩ | ⟨r, a⟩ | ⟨r, a⟩ | ⟨r, a⟩ | ⟨r, a⟩ | ⟨r, a⟩ :=
      region_cases (evenAddr t.addr) <;> rw [r]
    iterate 7 exact evenIn_iff.2 (by omega)
    · exact wf_by_A10 (fun _ => evenIn_iff.2 (by omega)) fun _ => wf_by_A1 rfl rfl (evenIn_iff.2 (by omega))
    · exact wf_by_A10 (fun _ => evenIn_iff.2 (by omega)) fun _ => evenIn_iff.2 (by omega)
    · exact wf_by_A10 (fun _ => evenIn_iff.2 (by omega)) fun _ => wf_by_A1 rfl rfl (evenIn_iff.2 (by omega))
    · exact evenIn_iff.2 (by omega)
  · rw [(memoryKeyRows t _ rfl).2 _ rfl (by omega), Except.ok.injEq] at row
    subst row
    obtain ⟨r, a⟩ | ⟨r, a⟩ | ⟨r, a⟩ | ⟨r, a⟩ | ⟨r, a⟩ | ⟨r, a⟩ | ⟨r, a⟩ | ⟨r, a⟩ | ⟨r, a⟩ | ⟨r, a⟩ | ⟨r, a⟩ :=
      region_cases (evenAddr t.addr) <;> rw [r]
    iterate 7 exact evenIn_iff.2 (by omega)
    · exact wf_by_A10 (fun _ => wf_by_A1 rfl rfl (evenIn_iff.2 (by omega))) fun _ => evenIn_iff.2 (by omega)
    · exact wf_by_A10 (fun _ => evenIn_iff.2 (by omega)) fun _ => evenIn_iff.2 (by omega)
    · exact wf_by_A10 (fun _ => wf_by_A1 rfl rfl (evenIn_iff.2 (by omega))) fun _ => evenIn_iff.2 (by omega)
    · exact evenIn_iff.2 (by omega)

theorem wf_of_decode_cru {t : Txn} (lo : 0x20000 ≤ t.key.toNat) (hi : t.key.toNat < 0x40000) {i : Instr}
    (row : decode t = .ok i) : i.wf = true := by
  have bound := t.cruBit.isLt
  by_cases read : t.key.toNat / 0x10000 = 2
  · rw [(cruKeyRows t t.cruBit rfl).1 read, Except.ok.injEq] at row
    subst row
    split_ifs <;> simp only [Instr.wf, Bool.or_eq_true, bitIn_iff] <;> bv_omega
  · rw [(cruKeyRows t t.cruBit rfl).2 _ rfl (by omega), Except.ok.injEq] at row
    subst row
    split_ifs <;> simp only [Instr.wf, Bool.or_eq_true, bitIn_iff] <;> bv_omega

/-- The decoder answers well-formed instructions only, so the premise of O7 leaves nothing out. -/
theorem wf_of_decode {t : Txn} {i : Instr} (row : decode t = .ok i) : i.wf = true := by
  have bound := key_lt t.key
  by_cases mem : t.key.toNat < 0x20000
  · exact wf_of_decode_mem mem row
  by_cases cru : t.key.toNat < 0x40000
  · exact wf_of_decode_cru (by omega) cru row
  · exact (reads_decode_sideband (id := t.key.toNat / 0x1000 % 64) (by omega)).good_of_ok row

/-! ### The step -/

theorem perform_refused_iff {t : Txn} {s : State} :
    (∃ r, perform t s = .refused r) ↔ ∃ e, decode t = .error e := by
  cases h : decode t with
  | ok i =>
    obtain ⟨u, run⟩ := exec_completes i s
    simp [perform_ok h, run]
  | error e => simp [perform_error h]

theorem perform_ne_fault (t : Txn) (s : State) (f : Fault) : perform t s ≠ .fault f := by cases f

/-- Settles O8: a bus key always decodes, and a sideband key is issued as it stands. -/
theorem refusesExactlyTheMeaningless : Obligations.RefusesExactlyTheMeaningless := by
  rintro s t rest queued id rfl
  have bound := key_lt t.key
  rw [step_pending queued, perform_refused_iff]
  refine ⟨?_, perform_ne_fault _ _⟩
  by_cases bus : t.key.toNat < 0x40000
  · obtain ⟨i, row, -⟩ := decode_bus_ok (issue_key_lt bus s.cru.tmode)
    simp [row, Nat.not_le.2 bus]
  · rw [issue_of_not_cru (by omega), (reads_decode_sideband (id := t.key.toNat / 0x1000 % 64) (by omega)).exists_error_iff]
    simp only [Nat.not_lt.1 bus, true_and]
    rfl

/-- Setting bit 12 of a number. -/
theorem or_bit12 (n : Nat) : n ||| 0x1000 = n / 0x2000 * 0x2000 + 0x1000 + n % 0x1000 := by
  have low : n % 0x1000 < 2 ^ 12 := by omega
  have set : 2 ^ 12 * (n / 0x1000 % 2) ||| 0x1000 = 2 ^ 12 * 1 := by
    obtain b | b := Nat.mod_two_eq_zero_or_one (n / 0x1000) <;> rw [b] <;> rfl
  calc n ||| 0x1000
      = (2 ^ 13 * (n / 0x2000) + (2 ^ 12 * (n / 0x1000 % 2) + n % 0x1000)) ||| 0x1000 := by
        congr 1
        omega
    _ = 2 ^ 13 * (n / 0x2000) ||| (2 ^ 12 * 1 ||| n % 0x1000) := by
        rw [Nat.two_pow_add_eq_or_of_lt (by omega), Nat.or_assoc, Nat.two_pow_add_eq_or_of_lt low, Nat.or_right_comm,
          set]
    _ = 2 ^ 13 * (n / 0x2000) + (2 ^ 12 * 1 + n % 0x1000) := by
        rw [← Nat.two_pow_add_eq_or_of_lt low, ← Nat.two_pow_add_eq_or_of_lt (by omega)]
    _ = n / 0x2000 * 0x2000 + 0x1000 + n % 0x1000 := by omega

/-- Clearing bit 12 of a 19-bit number. -/
theorem and_7EFFF (n : Nat) : n &&& 0x7EFFF = n / 0x2000 % 0x40 * 0x2000 + n % 0x1000 := by
  simpa using and_blocks n 13 6 0 12 (by decide)

/-- R91 in bits: TMODE is written into K[12] of a CRU key. -/
theorem keyInMode_eq (k : Key) (m : Bool) :
    keyInMode k m = if k.toNat / 0x20000 = 1 then (if m then k ||| 0x01000 else k &&& 0x7EFFF) else k := by
  have bound := key_lt k
  have set : (k ||| 0x01000).toNat = k.toNat ||| 0x1000 := BitVec.toNat_or ..
  have clear : (k &&& 0x7EFFF).toNat = k.toNat &&& 0x7EFFF := BitVec.toNat_and ..
  rw [or_bit12] at set
  rw [and_7EFFF] at clear
  unfold keyInMode Key.isCru
  simp only [beq_iff_eq]
  split_ifs with cru timer
  · rw [BitVec.toNat_eq, BitVec.toNat_ofNat, timer, bitNat, if_pos rfl]
    omega
  · rw [BitVec.toNat_eq, BitVec.toNat_ofNat, bitNat, if_neg timer]
    omega
  · rfl

/-- Settles O7: the key of the statement is the one the block decodes. -/
theorem stepRunsDecoded : Obligations.StepRunsDecoded := by
  intro s t rest i queued row _
  rw [← keyInMode_eq] at row
  rw [step_pending queued]
  exact perform_ok row

/-- Settles O1: each key is decoded against the table. -/
theorem spelledKeysDecode : Obligations.SpelledKeysDecode := by
  unfold Obligations.SpelledKeysDecode
  decide

end Sys2Proof.Machine
end

section
/-! Snapshots (43_host.md R218 to R226): each element of a snapshot against the element of the block it shows, so that a
snapshot is well formed exactly when the block it shows meets the invariant. -/

namespace Sys2Proof.Machine

/-! ### One element -/

@[simp] theorem snapBit_bitNat (v : Bool) : snapBit (some (bitNat v)) = v := by cases v <;> rfl

theorem bitNat_lt_two (v : Bool) : bitNat v < 2 := by cases v <;> decide

theorem exists_bitNat_eq {x : Nat} (h : x < 2) : ∃ v, bitNat v = x := by
  obtain rfl | rfl : x = 0 ∨ x = 1 := by omega
  · exact ⟨false, rfl⟩
  · exact ⟨true, rfl⟩

theorem exists_toNat_eq {n x : Nat} (h : x < 2 ^ n) : ∃ v : BitVec n, v.toNat = x :=
  ⟨BitVec.ofNat n x, by rw [BitVec.toNat_ofNat, Nat.mod_eq_of_lt h]⟩

theorem presentBelow_iff {o : Option Nat} {n : Nat} : presentBelow o n = true ↔ ∃ x, x < n ∧ o = some x := by
  cases o <;> simp [presentBelow]

/-- A 1-bit element shows one flag. -/
theorem presentBit_iff {o : Option Nat} : presentBelow o 2 = true ↔ ∃ v, o = some (bitNat v) := by
  rw [presentBelow_iff]
  constructor
  · rintro ⟨x, hx, rfl⟩
    obtain ⟨v, rfl⟩ := exists_bitNat_eq hx
    exact ⟨v, rfl⟩
  · rintro ⟨v, rfl⟩
    exact ⟨_, bitNat_lt_two v, rfl⟩

/-- An element below a power of two shows one word. -/
theorem presentWord_iff {o : Option Nat} (n : Nat) :
    presentBelow o (2 ^ n) = true ↔ ∃ v : BitVec n, o = some v.toNat := by
  rw [presentBelow_iff]
  constructor
  · rintro ⟨x, hx, rfl⟩
    obtain ⟨v, rfl⟩ := exists_toNat_eq hx
    exact ⟨v, rfl⟩
  · rintro ⟨v, rfl⟩
    exact ⟨_, v.isLt, rfl⟩

/-- A canonical image of a given size is one canonical memory inside that size. -/
theorem image_iff {img : Image} {size : Nat} :
    (img.size = size ∧ Image.wf img) ↔ ∃ m, (Memory.wf m ∧ Memory.within m size) ∧ ⟨size, m⟩ = img := by
  constructor
  · rintro ⟨rfl, wf⟩
    exact ⟨img.cells, wf, rfl⟩
  · rintro ⟨m, wf, rfl⟩
    exact ⟨rfl, wf⟩

/-- A store shows one canonical memory inside its size. -/
theorem presentStore_iff {o : Option Image} {size : Nat} :
    presentStore o size = true ↔ ∃ m, (Memory.wf m ∧ Memory.within m size) ∧ o = some ⟨size, m⟩ := by
  cases o with
  | none => simp [presentStore]
  | some img =>
    simp only [presentStore, Option.any_some, decide_eq_true_eq, image_iff, Option.some.injEq, eq_comm (a := img)]

/-- The words a snapshot holds: DSR_SEL, CLK and GADDR. -/
theorem presentSlot_iff {o : Option Nat} : presentBelow o 16 = true ↔ ∃ v : BitVec 4, o = some v.toNat :=
  presentWord_iff 4

theorem presentClock_iff {o : Option Nat} : presentBelow o 0x4000 = true ↔ ∃ v : BitVec 14, o = some v.toNat :=
  presentWord_iff 14

theorem presentCursor_iff {o : Option Nat} : presentBelow o 0x10000 = true ↔ ∃ v : Word, o = some v.toNat :=
  presentWord_iff 16

theorem presentPhase_iff {o : Option Nat} : (o = some 1 ∨ o = some 2) ↔ ∃ v, o = some (phaseNat v) := by
  constructor
  · rintro (rfl | rfl)
    · exact ⟨.one, rfl⟩
    · exact ⟨.two, rfl⟩
  · rintro ⟨_ | _, rfl⟩
    · exact Or.inl rfl
    · exact Or.inr rfl

/-- The CRU lines, canonical. -/
theorem presentLines_iff {o : Option BitImage} :
    o.any (fun l => decide (l.width = 4096 ∧ CruLines.wf l.ones)) = true ↔
      ∃ l, CruLines.wf l ∧ o = some ⟨4096, l⟩ := by
  constructor
  · intro h
    obtain ⟨⟨_, l⟩, rfl, h⟩ := Option.any_eq_true _ _ |>.1 h
    obtain ⟨rfl, wf⟩ := of_decide_eq_true h
    exact ⟨l, wf, rfl⟩
  · rintro ⟨l, wf, rfl⟩
    exact decide_eq_true ⟨rfl, wf⟩

/-- The decrementer in its range, beside a clock. -/
theorem presentDec_iff {o : Option Int} {clk : Option Nat} :
    o.any (fun d => decide (0 ≤ d ∧ d < 0x4000 ∧ (clk ≠ some 0 → 1 ≤ d))) = true ↔
      ∃ d, (0 ≤ d ∧ d < 0x4000 ∧ (clk ≠ some 0 → 1 ≤ d)) ∧ o = some d := by
  cases o with
  | none => simp
  | some d => simp only [Option.any_some, decide_eq_true_eq, Option.some.injEq, exists_eq_right']

/-- The cartridge with its bank count and its ROM bank in range. -/
theorem presentCart_iff {o : Option Image} {banks romBank : Option Nat} :
    o.any (fun img => decide (Image.wf img ∧ img.size % 0x2000 = 0 ∧ banks = some (img.size / 0x2000)) &&
      presentBelow romBank (max (img.size / 0x2000) 1)) = true ↔
      ∃ img r, (Image.wf img ∧ img.size % 0x2000 = 0 ∧ r < max (img.size / 0x2000) 1) ∧ o = some img ∧
        banks = some (img.size / 0x2000) ∧ romBank = some r := by
  constructor
  · intro h
    obtain ⟨img, rfl, h⟩ := Option.any_eq_true _ _ |>.1 h
    obtain ⟨cart, bank⟩ := Bool.and_eq_true_iff.1 h
    obtain ⟨wf, whole, count⟩ := of_decide_eq_true cart
    obtain ⟨r, hr, shown⟩ := presentBelow_iff.1 bank
    exact ⟨img, r, ⟨wf, whole, hr⟩, rfl, count, shown⟩
  · rintro ⟨img, r, ⟨wf, whole, hr⟩, rfl, count, shown⟩
    exact Bool.and_eq_true_iff.2 ⟨decide_eq_true ⟨wf, whole, count⟩, presentBelow_iff.2 ⟨r, hr, shown⟩⟩

/-! ### Banks of sixteen -/

section
variable {α β : Type}

/-- Sixteen elements, each of which shows a good value, are the elements of one bank. -/
theorem bank_iff {f : β → α} {shown : α → Prop} {good : β → Prop} (same : ∀ x, shown x ↔ ∃ v, good v ∧ f v = x)
    {l : List α} :
    (l.length = 16 ∧ ∀ x ∈ l, shown x) ↔
      ∃ v : Vector β 16, (∀ i : Fin 16, good v[i]) ∧ l = v.toList.map f := by
  constructor
  · rintro ⟨len, each⟩
    have value (i : Fin 16) : ∃ v, good v ∧ f v = l[i.val]'(by omega) := (same _).1 (each _ (List.getElem_mem _))
    choose v isGood isShown using value
    refine ⟨Vector.ofFn v, fun i => by simpa using isGood i, List.ext_getElem (by simp [len]) fun i h _ => ?_⟩
    simp [isShown]
  · rintro ⟨v, isGood, rfl⟩
    refine ⟨by simp, fun x hx => ?_⟩
    obtain ⟨y, hy, rfl⟩ := List.mem_map.1 hx
    obtain ⟨i, hi, rfl⟩ := List.mem_iff_getElem.1 hy
    exact (same _).2 ⟨_, isGood ⟨i, by simpa using hi⟩, rfl⟩

theorem presentBank_iff {o : Option (List Nat)} {n : Nat} {f : β → Nat} (same : ∀ x, x < n ↔ ∃ v, f v = x) :
    presentBank o n = true ↔ ∃ v : Vector β 16, o = some (v.toList.map f) := by
  have bank {l : List Nat} := bank_iff (l := l) (good := fun _ => True) fun x => by simpa using same x
  cases o <;> simp [presentBank, bank]

theorem presentByteBank_iff {o : Option (List Nat)} :
    presentBank o 0x100 = true ↔ ∃ v : Vector Byte 16, o = some (v.toList.map BitVec.toNat) :=
  presentBank_iff fun _ => ⟨exists_toNat_eq (n := 8), fun ⟨v, e⟩ => e ▸ v.isLt⟩

theorem presentWordBank_iff {o : Option (List Nat)} :
    presentBank o 0x10000 = true ↔ ∃ v : Vector Word 16, o = some (v.toList.map BitVec.toNat) :=
  presentBank_iff fun _ => ⟨exists_toNat_eq (n := 16), fun ⟨v, e⟩ => e ▸ v.isLt⟩

theorem presentBitBank_iff {o : Option (List Nat)} :
    presentBank o 2 = true ↔ ∃ v : Vector Bool 16, o = some (v.toList.map bitNat) :=
  presentBank_iff fun _ => ⟨exists_bitNat_eq, fun ⟨v, e⟩ => e ▸ bitNat_lt_two v⟩

/-- The sixteen peripheral images, each canonical. -/
theorem presentImages_iff {o : Option (List Image)} :
    o.any (fun l => decide (l.length = 16 ∧ ∀ img ∈ l, Image.wf img)) = true ↔
      ∃ v : Vector Image 16, (∀ i : Fin 16, Image.wf v[i]) ∧ o = some v.toList := by
  have bank {l : List Image} := bank_iff (l := l) (f := id) (shown := Image.wf) (good := Image.wf) fun x => by simp
  cases o <;> simp [bank]

/-- The sixteen GROM bases, each canonical and inside 65536 bytes. -/
theorem presentGrom_iff {o : Option (List Image)} :
    o.any (fun l => decide (l.length = 16 ∧ ∀ img ∈ l, img.size = 0x10000 ∧ Image.wf img)) = true ↔
      ∃ v : Vector Memory 16, (∀ i : Fin 16, Memory.wf v[i] ∧ Memory.within v[i] 0x10000) ∧
        o = some (v.toList.map (Image.mk 0x10000)) := by
  have bank {l : List Image} := bank_iff (l := l) (f := Image.mk 0x10000)
    (shown := fun img => img.size = 0x10000 ∧ Image.wf img)
    (good := fun m => Memory.wf m ∧ Memory.within m 0x10000) fun _ => image_iff
  cases o <;> simp [bank]

/-- Reading back a bank that was written element by element. -/
theorem snapBank_map {f : β → α} {g : α → β} (v : Vector β 16) (d : α) (back : ∀ x, g (f x) = x) :
    snapBank (some (v.toList.map f)) d g = v := by
  apply Vector.ext
  intro i hi
  simp [snapBank, List.getD_eq_getElem?_getD, back]

end

/-! ### The whole snapshot -/

/-- GPOP[0] = 1 as a snapshot shows it. -/
theorem head_bitNat_iff {v : Vector Bool 16} : (v.toList.map bitNat).head? = some 1 ↔ v[0] = true := by
  have head : v.toList.head? = some v[0] := by
    rw [List.head?_eq_getElem?]
    simp
  rw [List.head?_map, head, Option.map_some, Option.some.injEq, bitNat_eq_one_iff]

/-- GPHASE read back. -/
theorem phase_phaseNat (v : GromPhase) :
    (if some (phaseNat v) = some 1 then GromPhase.one else GromPhase.two) = v := by
  cases v <;> rfl

/-- What RESTORE_STATE installs of what GET_STATE took is the block itself. -/
theorem snapshotBlock_takeSnapshot (p : Params) (b : Block) : snapshotBlock (takeSnapshot p b) = b := by
  have images := snapBank_map (f := id) (g := id) b.decoder.dsrImg Image.empty fun _ => rfl
  rw [List.map_id] at images
  have bases := snapBank_map (f := Image.mk 0x10000) (g := Image.cells) b.gsq.grom Image.empty fun _ => rfl
  have populated := snapBank_map (f := bitNat) (g := fun x => x == 1) b.gsq.gpop 0 (by decide)
  have words {n : Nat} (v : Vector (BitVec n) 16) := snapBank_map (f := BitVec.toNat) (g := BitVec.ofNat n) v 0
    fun x => by simp
  have phase := phase_phaseNat b.gsq.gphase
  unfold takeSnapshot snapshotBlock
  simp only [snapBit_bitNat, snapStore, Option.getD_some, images, bases, populated, words, phase, BitVec.ofNat_toNat,
    BitVec.setWidth_eq]

/-- A well-formed snapshot shows a block with the ROM it is checked against, and that block meets the invariant. -/
theorem exists_block_of_snapshotWellFormed {p : Params} {rom : Memory} {S : Snapshot}
    (wf : snapshotWellFormed p rom S = true) :
    ∃ b, BlockInv p b ∧ b.decoder.rom = rom ∧ S = takeSnapshot p b := by
  cases S with
  | mk ram32kEn amsEn gramEn srom ram dsrImg dsrSel dsrEn cartImg cartBanks cartInv cartRam6 cartRam7 cartPaged romBank
      ramBank cartRam amsMem amsReg amsMode amsAcc grom gpop gaddr gphase gpref cruBits tmode clk dec tint vint
      elapsed =>
  simp only [snapshotWellFormed, decoderWellFormed, bscWellFormed, amsWellFormed, cruWellFormed, gsqWellFormed,
    Bool.and_eq_true, presentBit_iff, presentSlot_iff, presentClock_iff, presentCursor_iff, presentStore_iff,
    presentBitBank_iff, presentByteBank_iff, presentWordBank_iff, presentImages_iff, presentGrom_iff,
    presentLines_iff, presentDec_iff, presentCart_iff, presentBelow_iff (n := p.cartRamBanks),
    decide_eq_true_eq, presentPhase_iff, Option.isSome_iff_exists] at wf
  obtain ⟨⟨⟨⟨decoder, bsc⟩, ams⟩, cru⟩, gsq⟩ := wf
  obtain ⟨⟨⟨⟨⟨⟨⟨⟨⟨ram32kEn, rfl⟩, ⟨amsEn, rfl⟩⟩, ⟨gramEn, rfl⟩⟩, ⟨ownRom, romInv, rfl⟩⟩, same⟩,
    ⟨ram, ramInv, rfl⟩⟩, ⟨dsrImg, dsrImgInv, rfl⟩⟩, ⟨dsrSel, rfl⟩⟩, ⟨dsrEn, rfl⟩⟩ := decoder
  obtain ⟨⟨⟨⟨⟨⟨⟨cartImg, romBank, ⟨imgInv, whole, romBankInv⟩, rfl, rfl, rfl⟩, ⟨cartInv, rfl⟩⟩, ⟨cartRam6, rfl⟩⟩,
    ⟨cartRam7, rfl⟩⟩, ⟨cartPaged, rfl⟩⟩, ⟨ramBank, ramBankInv, rfl⟩⟩, ⟨cartRam, cartRamInv, rfl⟩⟩ := bsc
  obtain ⟨⟨⟨⟨amsMem, amsMemInv, rfl⟩, ⟨amsReg, rfl⟩⟩, ⟨amsMode, rfl⟩⟩, ⟨amsAcc, rfl⟩⟩ := ams
  obtain ⟨⟨⟨⟨⟨⟨⟨bits, bitsInv, rfl⟩, ⟨tmode, rfl⟩⟩, ⟨clk, rfl⟩⟩, ⟨dec, ⟨lo, hi, running⟩, rfl⟩⟩, ⟨tint, rfl⟩⟩,
    ⟨vint, rfl⟩⟩, ⟨elapsed, rfl⟩⟩ := cru
  obtain ⟨⟨⟨⟨⟨⟨grom, gromInv, rfl⟩, ⟨gpop, rfl⟩⟩, populated⟩, ⟨gaddr, rfl⟩⟩, ⟨gphase, rfl⟩⟩, ⟨gpref, rfl⟩⟩ := gsq
  obtain rfl : ownRom = rom := congrArg Image.cells (Option.some.inj same)
  have base0 : gpop[0] = true := head_bitNat_iff.1 (of_decide_eq_true populated)
  have started (h : clk ≠ 0) : 1 ≤ dec := running fun zero => h (BitVec.eq_of_toNat_eq (Option.some.inj zero))
  exact ⟨⟨⟨ram32kEn, amsEn, gramEn, ownRom, ram, dsrImg, dsrSel, dsrEn⟩,
    ⟨cartImg, cartRam, cartInv, cartRam6, cartRam7, cartPaged, romBank, ramBank⟩, ⟨amsMem, amsReg, amsMode, amsAcc⟩,
    ⟨bits, tmode, clk, dec, tint, vint, elapsed⟩, ⟨grom, gpop, gaddr, gphase, gpref⟩⟩,
    ⟨romInv, ramInv, dsrImgInv, ⟨imgInv, whole⟩, cartRamInv, romBankInv, ramBankInv, amsMemInv, gromInv, base0, bitsInv,
      lo, hi, started⟩, rfl, rfl⟩

/-- The snapshot of a block that meets the invariant is well formed over the block's own ROM. -/
theorem snapshotWellFormed_takeSnapshot {p : Params} {b : Block} (inv : BlockInv p b) :
    snapshotWellFormed p b.decoder.rom (takeSnapshot p b) = true := by
  obtain ⟨lo, hi, running⟩ := inv.dec
  obtain ⟨imgInv, whole⟩ := inv.cartImg
  have base0 : decide ((b.gsq.gpop.toList.map bitNat).head? = some 1) = true :=
    decide_eq_true (head_bitNat_iff.2 inv.gpop)
  have started (h : some b.cru.clk.toNat ≠ some 0) : 1 ≤ b.cru.dec := running fun zero => h (by rw [zero]; rfl)
  simp only [snapshotWellFormed, decoderWellFormed, bscWellFormed, amsWellFormed, cruWellFormed, gsqWellFormed,
    Bool.and_eq_true, presentBit_iff, presentSlot_iff, presentClock_iff, presentCursor_iff, presentStore_iff,
    presentBitBank_iff, presentByteBank_iff, presentWordBank_iff, presentImages_iff, presentGrom_iff,
    presentLines_iff, presentDec_iff, presentCart_iff, presentBelow_iff (n := p.cartRamBanks),
    decide_eq_true_eq, presentPhase_iff, Option.isSome_iff_exists]
  refine ⟨⟨⟨⟨?_, ?_⟩, ?_⟩, ?_⟩, ?_⟩
  · exact ⟨⟨⟨⟨⟨⟨⟨⟨⟨_, rfl⟩, ⟨_, rfl⟩⟩, ⟨_, rfl⟩⟩, ⟨_, inv.rom, rfl⟩⟩, rfl⟩, ⟨_, inv.ram, rfl⟩⟩, ⟨_, inv.dsrImg, rfl⟩⟩,
      ⟨_, rfl⟩⟩, ⟨_, rfl⟩⟩
  · exact ⟨⟨⟨⟨⟨⟨⟨_, _, ⟨imgInv, whole, inv.romBank⟩, rfl, rfl, rfl⟩, ⟨_, rfl⟩⟩, ⟨_, rfl⟩⟩, ⟨_, rfl⟩⟩, ⟨_, rfl⟩⟩,
      ⟨_, inv.ramBank, rfl⟩⟩, ⟨_, inv.cartRam, rfl⟩⟩
  · exact ⟨⟨⟨⟨_, inv.amsMem, rfl⟩, ⟨_, rfl⟩⟩, ⟨_, rfl⟩⟩, ⟨_, rfl⟩⟩
  · exact ⟨⟨⟨⟨⟨⟨⟨_, inv.bits, rfl⟩, ⟨_, rfl⟩⟩, ⟨_, rfl⟩⟩, ⟨_, ⟨lo, hi, started⟩, rfl⟩⟩, ⟨_, rfl⟩⟩, ⟨_, rfl⟩⟩, ⟨_, rfl⟩⟩
  · exact ⟨⟨⟨⟨⟨⟨_, inv.grom, rfl⟩, ⟨_, rfl⟩⟩, base0⟩, ⟨_, rfl⟩⟩, ⟨_, rfl⟩⟩, ⟨_, rfl⟩⟩

/-- Settles O43: the checks of R220 are those of the invariant, element by element. -/
theorem wellFormedSnapshots : Obligations.WellFormedSnapshots := by
  intro p rom S
  constructor
  · exact exists_block_of_snapshotWellFormed
  · rintro ⟨b, inv, rfl, rfl⟩
    exact snapshotWellFormed_takeSnapshot inv

/-! ### GET_STATE, RESTORE_STATE and the host errors -/

/-- Settles O42: the snapshot taken shows the block whole, and a restore installs it or raises. -/
theorem snapshotTakenAndInstalled : Obligations.SnapshotTakenAndInstalled := by
  refine ⟨fun s => ⟨takeSnapshot s.params s.toBlock, exec_getState s, snapshotBlock_takeSnapshot _ _⟩, fun S s => ?_⟩
  rw [exec_restoreState, execRestoreState]
  split_ifs <;> rfl

/-- Settles O44: the snapshot is well formed wherever parameters and ROM are the same, and shows the block. -/
theorem snapshotRoundTrip : Obligations.SnapshotRoundTrip := by
  rintro s t S inv taken value u sameParams sameRom
  obtain rfl : s.untimed (.snapshot (takeSnapshot s.params s.toBlock)) [] = t := by
    rw [exec_getState, execGetState] at taken
    exact Host.Outcome.next.inj taken
  obtain rfl : takeSnapshot s.params s.toBlock = S := by simpa [State.untimed] using value
  rw [snapshotTakenAndInstalled.2, sameParams, sameRom, if_pos (snapshotWellFormed_takeSnapshot inv.block),
    snapshotBlock_takeSnapshot]

/-- A loader raises E_EMPTY exactly where its list is empty. -/
theorem error_of_loader {bytes : List Byte} {s t u : State} {e : HostError} (answered : t.reply.error = none)
    (run : (if bytes.isEmpty then Host.Outcome.next (s.raise .eEmpty) else .next t : Step) = .next u)
    (error : u.reply.error = some e) : bytes = [] ∧ e = .eEmpty ∧ u = s.raise .eEmpty := by
  split_ifs at run with empty
  · obtain rfl := Host.Outcome.next.inj run
    exact ⟨List.isEmpty_iff.1 empty, (Option.some.inj error).symm, rfl⟩
  · obtain rfl := Host.Outcome.next.inj run
    rw [answered] at error
    cases error

theorem canRaise_of_error {i : Instr} {s u : State} {e : HostError} (run : exec i s = .next u)
    (error : u.reply.error = some e) : canRaise i = true := by
  by_contra safe
  obtain ⟨u', run', -, noError⟩ := exec_answers (Bool.eq_false_iff.2 safe) s
  obtain rfl := Host.Outcome.next.inj (run.symm.trans run')
  rw [noError] at error
  cases error

/-- Settles O41: only the loaders and RESTORE_STATE can raise, each of them by `State.raise`. -/
theorem hostErrorsChangeNothing : Obligations.HostErrorsChangeNothing := by
  refine ⟨fun s a o b n f1 f2 f3 f4 i row => ?_, fun s S illFormed => ?_, fun i s u e run error => ?_⟩
  · simp only [List.mem_cons, List.not_mem_nil, or_false] at row
    obtain rfl | rfl | rfl | rfl := row
    · exact exec_loadRam s a []
    · exact exec_loadGrom s b o []
    · exact exec_loadCart s [] f1 f2 f3 f4
    · exact exec_loadDsr s n []
  · rw [snapshotTakenAndInstalled.2, illFormed, if_neg (by decide)]
  · cases i with
    | loadRam a bytes =>
      obtain ⟨rfl, rfl, rfl⟩ := error_of_loader rfl run error
      exact ⟨rfl, Or.inl ⟨a, rfl⟩⟩
    | loadGrom b o bytes =>
      obtain ⟨rfl, rfl, rfl⟩ := error_of_loader rfl run error
      exact ⟨rfl, Or.inr (Or.inl ⟨b, o, rfl⟩)⟩
    | loadCart bytes f1 f2 f3 f4 =>
      obtain ⟨rfl, rfl, rfl⟩ := error_of_loader rfl run error
      exact ⟨rfl, Or.inr (Or.inr (Or.inl ⟨f1, f2, f3, f4, rfl⟩))⟩
    | loadDsr n bytes =>
      obtain ⟨rfl, rfl, rfl⟩ := error_of_loader rfl run error
      exact ⟨rfl, Or.inr (Or.inr (Or.inr ⟨n, rfl⟩))⟩
    | restoreState S =>
      obtain ⟨-, rfl, -⟩ | ⟨illFormed, rfl⟩ := execRestoreState_cases run
      · cases error
      · obtain rfl := Option.some.inj error
        exact ⟨rfl, S, rfl, illFormed⟩
    | _ => cases canRaise_of_error run error

end Sys2Proof.Machine
end

section
/-! What an instruction can do to the block, said once: each instruction leaves the block as it was or has the one effect
of its rule. The invariant and the writers of each element (10_state.md sections 1.2 to 1.6) are read off it. -/

namespace Sys2Proof.Machine

/-! ### The effect of an instruction on the block -/

/-- The instructions that answer without changing an element of the block. -/
def keepsBlock : Instr → Bool
  | .mrdRom _ | .mrdLoram _ | .mrdPeriph _ | .mrdCart _ | .mrdPad _ | .mrdSound _ | .mrdGap _ | .mrdVdpData _
  | .mrdVdpStat _ | .mrdVdpWp _ | .mrdSpch _ | .mrdSpchWp _ | .mrdGrWp _ | .mrdHiram _
  | .mwrRom .. | .mwrSound .. | .mwrGap .. | .mwrVdpRp .. | .mwrVdpData .. | .mwrVdpAddr .. | .mwrSpchRp ..
  | .mwrSpch .. | .mwrGrRp ..
  | .crdMode | .crdTInt | .crdTClk _ | .crdNVdp | .crdNKbd _ | .crdTapeIn | .crdStored _ | .cwrTB15 _
  | .getState | .dbgRdb _ | .dbgRdw _ | .status => true
  | _ => false

/-- The blocks an instruction can leave, from a state: one constructor for each rule that changes an element. -/
inductive Effect (s : State) : Instr → Block → Prop
  | keeps {i : Instr} (h : keepsBlock i = true) : Effect s i s.toBlock
  | raises {i : Instr} (h : canRaise i = true) : Effect s i s.toBlock
  | mwrLoram (a d : Word) : Effect s (.mwrLoram a d) (ramWrite16 s (evenAddr a) d).toBlock
  | mwrHiram (a d : Word) : Effect s (.mwrHiram a d) (ramWrite16 s (evenAddr a) d).toBlock
  | mwrPad (a d : Word) : Effect s (.mwrPad a d) { s.toBlock with decoder := setPadWord s.decoder a d }
  | mwrPeriph (a d : Word) : Effect s (.mwrPeriph a d) (periphWrite s (evenAddr a) d).toBlock
  | mwrCart (a d : Word) :
      Effect s (.mwrCart a d) { s.toBlock with bsc := cartWrite s.params s.bsc (evenAddr a) d }
  | mrdGrData (a : Word) : Effect s (.mrdGrData a) { s.toBlock with gsq := ginc (grefill s.gsq) }
  | mrdGrAddr (a : Word) : Effect s (.mrdGrAddr a) { s.toBlock with
      gsq := { s.gsq with gaddr := gromFold s.params.gromAddrReadFold s.gsq.gaddr } }
  | mwrGrData (a d : Word) : Effect s (.mwrGrData a d) { s.toBlock with
      gsq := gromDataWrite s.decoder.gramEn s.gsq (evenAddr a) d }
  | mwrGrAddr (a d : Word) : Effect s (.mwrGrAddr a d) { s.toBlock with gsq := gromAddrWrite s.gsq d }
  | cwrMode (v : Bool) : Effect s (.cwrMode v) { s.toBlock with cru := { s.cru with tmode := v } }
  | cwrTClk (bit : CruBit) (v : Bool) :
      Effect s (.cwrTClk bit v) { s.toBlock with cru := clockWrite s.cru bit v }
  | cwrTExit (bit : CruBit) (v : Bool) :
      Effect s (.cwrTExit bit v) (normalWrite bit v { s with cru.tmode := false }).toBlock
  | cwrNAck (v : Bool) : Effect s (.cwrNAck v) { s.toBlock with cru := { storeLine s.cru 3 v with tint := false } }
  | cwrNMotor (v : Bool) : Effect s (.cwrNMotor v) { s.toBlock with cru := storeLine s.cru 22 v }
  | cwrNTapeOut (v : Bool) : Effect s (.cwrNTapeOut v) { s.toBlock with cru := storeLine s.cru 25 v }
  | cwrDsr (bit : CruBit) (v : Bool) : Effect s (.cwrDsr bit v) (dsrWrite bit v s).toBlock
  | cwrNStore (bit : CruBit) (v : Bool) :
      Effect s (.cwrNStore bit v) { s.toBlock with cru := storeLine s.cru bit.toNat v }
  | tick (n : Nat) : Effect s (.tick n) { s.toBlock with cru := timerTick s.cru n }
  | vdpInt (v : Bool) : Effect s (.vdpInt v) { s.toBlock with cru := { s.cru with vint := v } }
  | reset (kind : ResetKind) : Effect s (.reset kind) (resetBlock kind s.toBlock)
  | loadRam (a : Word) (bytes : List Byte) : Effect s (.loadRam a bytes) (loadRamBytes a bytes s).toBlock
  | loadGrom (base : BitVec 4) (o : Word) (bytes : List Byte) :
      Effect s (.loadGrom base o bytes) { s.toBlock with gsq := populate (loadGromBytes base o bytes s.gsq) base }
  | loadCart (bytes : List Byte) (inv ram6 ram7 paged : Bool) :
      Effect s (.loadCart bytes inv ram6 ram7 paged) { s.toBlock with bsc := installCart bytes inv ram6 ram7 paged }
  | loadDsr (slot : BitVec 4) (bytes : List Byte) : Effect s (.loadDsr slot bytes) { s.toBlock with
      decoder := { s.decoder with dsrImg := put16 s.decoder.dsrImg slot (Image.ofBytes bytes) } }
  | setRam32k (v : Bool) :
      Effect s (.setRam32k v) { s.toBlock with decoder := { s.decoder with ram32kEn := v } }
  | setAms (v : Bool) : Effect s (.setAms v) { s.toBlock with decoder := { s.decoder with amsEn := v } }
  | setGram (v : Bool) : Effect s (.setGram v) { s.toBlock with decoder := { s.decoder with gramEn := v } }
  | restoreState (S : Snapshot) (h : snapshotWellFormed s.params s.decoder.rom S = true) :
      Effect s (.restoreState S) (snapshotBlock S)

theorem normalWrite_params (bit : CruBit) (v : Bool) (s : State) : (normalWrite bit v s).params = s.params := by
  obtain ⟨_, _, _, _, _, keeps⟩ := normalWrite_keeps bit v s
  rw [keeps]

theorem loadRamBytes_params (a : Word) (bytes : List Byte) (s : State) :
    (loadRamBytes a bytes s).params = s.params := by
  obtain ⟨_, _, _, keeps⟩ := loadRamBytes_keeps bytes a s
  rw [keeps]

theorem loadRamBytes_pending (a : Word) (bytes : List Byte) (s : State) :
    (loadRamBytes a bytes s).pending = s.pending := by
  obtain ⟨_, _, _, keeps⟩ := loadRamBytes_keeps bytes a s
  rw [keeps]

/-- Every instruction keeps the parameters and the queue, and has its effect on the block. -/
theorem exec_effect (i : Instr) (s : State) :
    ∃ t, exec i s = .next t ∧ t.params = s.params ∧ t.pending = s.pending ∧ Effect s i t.toBlock := by
  cases i with
  | mwrLoram a d =>
    exact ⟨_, exec_mwrLoram s a d, ramWrite16_params s (evenAddr_even a) d, ramWrite16_pending s _ d, .mwrLoram a d⟩
  | mwrHiram a d =>
    exact ⟨_, exec_mwrHiram s a d, ramWrite16_params s (evenAddr_even a) d, ramWrite16_pending s _ d, .mwrHiram a d⟩
  | mwrPeriph a d =>
    exact ⟨_, exec_mwrPeriph s a d, periphWrite_params s _ d, periphWrite_pending s _ d, .mwrPeriph a d⟩
  | mwrPad a d => exact ⟨_, exec_mwrPad s a d, rfl, rfl, .mwrPad a d⟩
  | mwrCart a d => exact ⟨_, exec_mwrCart s a d, rfl, rfl, .mwrCart a d⟩
  | mrdGrData a => exact ⟨_, exec_mrdGrData s a, by simp, by simp, .mrdGrData a⟩
  | mrdGrAddr a => exact ⟨_, exec_mrdGrAddr s a, rfl, rfl, .mrdGrAddr a⟩
  | mwrGrData a d => exact ⟨_, exec_mwrGrData s a d, rfl, rfl, .mwrGrData a d⟩
  | mwrGrAddr a d => exact ⟨_, exec_mwrGrAddr s a d, rfl, rfl, .mwrGrAddr a d⟩
  | crdTClk bit =>
    rw [exec_crdTClk, execCrdTClk]
    cases s.params.timerRead <;> exact ⟨_, rfl, rfl, rfl, .keeps rfl⟩
  | crdStored bit =>
    rw [exec_crdStored, execCrdStored]
    cases s.params.unlistedCruRead <;> exact ⟨_, rfl, rfl, rfl, .keeps rfl⟩
  | cwrMode v => exact ⟨_, exec_cwrMode s v, rfl, rfl, .cwrMode v⟩
  | cwrTClk bit v => exact ⟨_, exec_cwrTClk s bit v, rfl, rfl, .cwrTClk bit v⟩
  | cwrTExit bit v =>
    exact ⟨_, exec_cwrTExit s bit v, normalWrite_params bit v _, normalWrite_pending bit v _, .cwrTExit bit v⟩
  | cwrNAck v => exact ⟨_, exec_cwrNAck s v, rfl, rfl, .cwrNAck v⟩
  | cwrNMotor v => exact ⟨_, exec_cwrNMotor s v, rfl, rfl, .cwrNMotor v⟩
  | cwrNTapeOut v => exact ⟨_, exec_cwrNTapeOut s v, rfl, rfl, .cwrNTapeOut v⟩
  | cwrDsr bit v => exact ⟨_, exec_cwrDsr s bit v, rfl, rfl, .cwrDsr bit v⟩
  | cwrNStore bit v => exact ⟨_, exec_cwrNStore s bit v, rfl, rfl, .cwrNStore bit v⟩
  | tick n => exact ⟨_, exec_tick s n, rfl, rfl, .tick n⟩
  | vdpInt v => exact ⟨_, exec_vdpInt s v, rfl, rfl, .vdpInt v⟩
  | reset kind => exact ⟨_, exec_reset s kind, rfl, rfl, .reset kind⟩
  | loadRam a bytes =>
    rw [exec_loadRam, execLoadRam]
    split_ifs
    · exact ⟨_, rfl, rfl, rfl, .raises rfl⟩
    · exact ⟨_, rfl, loadRamBytes_params a bytes s, loadRamBytes_pending a bytes s, .loadRam a bytes⟩
  | loadGrom base o bytes =>
    rw [exec_loadGrom, execLoadGrom]
    split_ifs
    · exact ⟨_, rfl, rfl, rfl, .raises rfl⟩
    · exact ⟨_, rfl, rfl, rfl, .loadGrom base o bytes⟩
  | loadCart bytes inv ram6 ram7 paged =>
    rw [exec_loadCart, execLoadCart]
    split_ifs
    · exact ⟨_, rfl, rfl, rfl, .raises rfl⟩
    · exact ⟨_, rfl, rfl, rfl, .loadCart bytes inv ram6 ram7 paged⟩
  | loadDsr slot bytes =>
    rw [exec_loadDsr, execLoadDsr]
    split_ifs
    · exact ⟨_, rfl, rfl, rfl, .raises rfl⟩
    · exact ⟨_, rfl, rfl, rfl, .loadDsr slot bytes⟩
  | setRam32k v => exact ⟨_, exec_setRam32k s v, rfl, rfl, .setRam32k v⟩
  | setAms v => exact ⟨_, exec_setAms s v, rfl, rfl, .setAms v⟩
  | setGram v => exact ⟨_, exec_setGram s v, rfl, rfl, .setGram v⟩
  | restoreState S =>
    rw [exec_restoreState, execRestoreState]
    split_ifs with wf
    · exact ⟨_, rfl, rfl, rfl, .restoreState S wf⟩
    · exact ⟨_, rfl, rfl, rfl, .raises rfl⟩
  | _ => exact ⟨_, rfl, rfl, rfl, .keeps rfl⟩

theorem effect_of_exec {i : Instr} {s t : State} (run : exec i s = .next t) :
    t.params = s.params ∧ t.pending = s.pending ∧ Effect s i t.toBlock := by
  obtain ⟨t', run', effect⟩ := exec_effect i s
  obtain rfl := Host.Outcome.next.inj (run.symm.trans run')
  exact effect

end Sys2Proof.Machine
end

section
/-! The invariant (10_state.md sections 1.1 to 1.6, 43_host.md R220): each unit's part of it, kept by that unit's
operations, and from these the invariant of the whole block after any effect. -/

namespace Sys2Proof.Machine

/-! ### Each unit's part of the invariant -/

/-- The CRU's part: canonical lines, DEC in [0, 2^14) and at least 1 while CLK is not 0. -/
def CruInv (c : CruUnit) : Prop :=
  CruLines.wf c.bits ∧ 0 ≤ c.dec ∧ c.dec < 0x4000 ∧ (c.clk ≠ 0 → 1 ≤ c.dec)

/-- The sequencer's part: canonical bases inside 65536 bytes, and base 0 populated. -/
def GsqInv (g : GromSeq) : Prop :=
  (∀ b : BitVec 4, Memory.wf (at16 g.grom b) ∧ Memory.within (at16 g.grom b) 0x10000) ∧ at16 g.gpop 0 = true

/-- The cartridge window's part: a whole number of banks, canonical stores and both indices in range. -/
def BscInv (p : Params) (c : BankSwitch) : Prop :=
  (Image.wf c.cartImg ∧ c.cartImg.size % 0x2000 = 0) ∧
  (Memory.wf c.cartRam ∧ Memory.within c.cartRam (cartRamSize p)) ∧
  c.romBank < max (cartBanks c) 1 ∧ c.ramBank < p.cartRamBanks

/-- A statement about every element of a bank of sixteen, with either kind of index. -/
theorem forall_fin_iff_at16 {α : Type} {v : Vector α 16} {P : α → Prop} :
    (∀ i : Fin 16, P v[i]) ↔ ∀ b : BitVec 4, P (at16 v b) := by
  refine ⟨fun h b => h ⟨b.toNat, b.isLt⟩, fun h i => ?_⟩
  have e : (BitVec.ofNat 4 i.val).toNat = i.val := by
    rw [BitVec.toNat_ofNat]
    omega
  have := h (BitVec.ofNat 4 i.val)
  simp only [at16, e] at this
  exact this

theorem forall_at16_put16 {α : Type} {v : Vector α 16} {P : α → Prop} (h : ∀ b, P (at16 v b)) {x : α} (hx : P x)
    (i b : BitVec 4) : P (at16 (put16 v i x) b) := by
  rw [at16_put16]
  split_ifs
  · exact hx
  · exact h b

theorem empty_store (size : Nat) : Memory.wf [] ∧ Memory.within [] size :=
  ⟨⟨List.Pairwise.nil, by simp⟩, by simp⟩

section
variable {p : Params} {b : Block}

theorem BlockInv.cru (h : BlockInv p b) : CruInv b.cru := ⟨h.bits, h.dec⟩

theorem BlockInv.gsq (h : BlockInv p b) : GsqInv b.gsq :=
  ⟨forall_fin_iff_at16 (P := fun m => Memory.wf m ∧ Memory.within m 0x10000) |>.1 h.grom, h.gpop⟩

theorem BlockInv.bsc (h : BlockInv p b) : BscInv p b.bsc := ⟨h.cartImg, h.cartRam, h.romBank, h.ramBank⟩

/-- A unit may be replaced by one that meets its part. -/
theorem BlockInv.setCru (h : BlockInv p b) {c : CruUnit} (hc : CruInv c) : BlockInv p { b with cru := c } :=
  { h with bits := hc.1, dec := hc.2 }

theorem BlockInv.setGsq (h : BlockInv p b) {g : GromSeq} (hg : GsqInv g) : BlockInv p { b with gsq := g } :=
  { h with
    grom := forall_fin_iff_at16 (P := fun m => Memory.wf m ∧ Memory.within m 0x10000) |>.2 hg.1
    gpop := hg.2 }

theorem BlockInv.setBsc (h : BlockInv p b) {c : BankSwitch} (hc : BscInv p c) : BlockInv p { b with bsc := c } := by
  obtain ⟨cartImg, cartRam, romBank, ramBank⟩ := hc
  exact { h with cartImg, cartRam, romBank, ramBank }

end

/-! ### RAM, AMS_MEM and CART_RAM -/

/-- A cell lies inside its store. -/
def InStore (p : Params) : StoreCell → Prop
  | .ram i => i < 0x10000
  | .ams i => i < p.amsPages * 0x1000
  | .cartRam i => i < cartRamSize p

section
variable {s : State}

theorem amsPages_pos (h : s.Inv) : 0 < s.params.amsPages := by
  obtain ⟨-, atLeast, -⟩ := h.params
  omega

theorem cartRamBanks_pos (h : s.Inv) : 0 < s.params.cartRamBanks := by
  obtain ⟨-, -, power, -⟩ := h.params
  rw [← power]
  exact Nat.two_pow_pos _

/-- A byte stored in a cell inside its store. -/
theorem writeCell_inv (h : s.Inv) {c : StoreCell} (hc : InStore s.params c) (v : Byte) : (writeCell c v s).Inv := by
  have block := h.block
  cases c with
  | ram i => exact ⟨h.params, { block with
      ram := ⟨Memory.write_wf block.ram.1 i v, Memory.write_within block.ram.2 hc v⟩ }⟩
  | ams i => exact ⟨h.params, { block with
      amsMem := ⟨Memory.write_wf block.amsMem.1 i v, Memory.write_within block.amsMem.2 hc v⟩ }⟩
  | cartRam i => exact ⟨h.params, { block with
      cartRam := ⟨Memory.write_wf block.cartRam.1 i v, Memory.write_within block.cartRam.2 hc v⟩ }⟩

theorem setRamByte_inv (h : s.Inv) (a : Word) (v : Byte) : (setRamByte s a v).Inv := by
  rw [setRamByte_eq]
  split_ifs
  · cases phys : amsPhys s.params s.ams a with
    | none => exact h
    | some x => exact writeCell_inv (c := .ams x) h (amsPhys_lt (amsPages_pos h) _ phys) v
  · exact writeCell_inv (c := .ram a.toNat) h a.isLt v
  · exact h

theorem ramWrite16_inv (h : s.Inv) (e d : Word) : (ramWrite16 s e d).Inv :=
  setRamByte_inv (setRamByte_inv h _ _) _ _

/-- The cell of a cartridge RAM access, of either byte of its word. -/
theorem cartRamIdx_inStore (h : s.Inv) {a : Word} (lo : 0x6000 ≤ a.toNat) (hi : a.toNat < 0x8000) {j : Nat} (hj : j ≤ 1) :
    InStore s.params (.cartRam (cartRamIdx s.bsc (evenAddr a) + j)) := by
  obtain ⟨lo', hi'⟩ := evenAddr_in_cart lo hi
  have := cartRamIdx_lt (b := s.bsc) h.block.ramBank lo' hi' (evenAddr_even a)
  show _ < cartRamSize s.params
  omega

theorem loadRamByte_inv (h : s.Inv) (t : Word) (v : Byte) : (loadRamByte t v s).Inv := by
  unfold loadRamByte
  obtain ⟨r, a⟩ | ⟨r, a⟩ | ⟨r, a⟩ | ⟨r, a⟩ | ⟨r, a⟩ | ⟨r, a⟩ | ⟨r, a⟩ | ⟨r, a⟩ | ⟨r, a⟩ | ⟨r, a⟩ | ⟨r, a⟩ :=
    region_cases t <;> rw [r]
  case inr.inl => exact setRamByte_inv h t v
  case inr.inr.inr.inl =>
    dsimp only
    split_ifs
    · exact writeCell_inv h (cartRamIdx_inStore h a.1 a.2 (by omega)) v
    · exact h
  case inr.inr.inr.inr.inl => exact writeCell_inv (c := .ram _) h (t ||| 0x0300).isLt v
  case inr.inr.inr.inr.inr.inr.inr.inr.inr.inr => exact setRamByte_inv h t v
  all_goals exact h

theorem loadRamBytes_inv (h : s.Inv) (t : Word) (bytes : List Byte) : (loadRamBytes t bytes s).Inv := by
  induction bytes generalizing t s with
  | nil => exact h
  | cons v bytes ih => exact ih (loadRamByte_inv h t v) (t + 1)

theorem padAddr_even (a : Word) : (padAddr a).toNat % 2 = 0 := by
  rw [padAddr, BitVec.toNat_or, show 2 = 2 ^ 1 from rfl, Nat.or_mod_two_pow, pow_one, evenAddr_even]
  rfl

/-- The scratchpad lies inside RAM. -/
theorem setPadWord_inv (h : s.Inv) (a d : Word) : (s.setDecoder (setPadWord s.decoder a d)).Inv := by
  have even := padAddr_even a
  have := (padAddr a).isLt
  have low := writeCell_inv (c := .ram (padAddr a).toNat) h (padAddr a).isLt (hi8 d)
  exact writeCell_inv (c := .ram ((padAddr a).toNat + 1)) low (show _ < 0x10000 by omega) (lo8 d)

/-- A write of the cartridge window stores in the seated RAM or selects a bank in range. -/
theorem cartWrite_inv (h : s.Inv) {a : Word} (lo : 0x6000 ≤ a.toNat) (hi : a.toNat < 0x8000) (d : Word) :
    BlockInv s.params { s.toBlock with bsc := cartWrite s.params s.bsc (evenAddr a) d } := by
  unfold cartWrite
  split_ifs
  · have high := writeCell_inv h (cartRamIdx_inStore h lo hi (j := 0) (by omega)) (hi8 d)
    exact (writeCell_inv high (cartRamIdx_inStore h lo hi (j := 1) (by omega)) (lo8 d)).block
  · obtain ⟨r, q, selected, romBank, ramBank⟩ := bankSelect_keeps s.params s.bsc (evenAddr a) d
    rw [selected]
    exact { h.block with
      romBank := romBank h.block.romBank
      ramBank := ramBank (cartRamBanks_pos h) h.block.ramBank }

end

/-! ### The GROM sequencer -/

section
variable {g : GromSeq}

theorem refilled_inv (h : GsqInv g) : GsqInv (ginc (grefill g)) := by
  simpa only [GsqInv, ginc_grom, grefill_grom, ginc_gpop, grefill_gpop] using h

theorem gromStore_inv (h : GsqInv g) (b : BitVec 4) (i : Word) (v : Byte) : GsqInv (gromStore g b i v) :=
  ⟨forall_at16_put16 (P := fun m => Memory.wf m ∧ Memory.within m 0x10000) h.1
    ⟨Memory.write_wf (h.1 b).1 _ v, Memory.write_within (h.1 b).2 i.isLt v⟩ b, h.2⟩

theorem gromDataWrite_inv (h : GsqInv g) (en : Bool) (e d : Word) : GsqInv (gromDataWrite en g e d) := by
  unfold gromDataWrite
  split_ifs
  · exact refilled_inv (gromStore_inv h _ _ _)
  · exact h

theorem gromAddrWrite_inv (h : GsqInv g) (d : Word) : GsqInv (gromAddrWrite g d) := by
  unfold gromAddrWrite
  cases g.gphase <;> exact h

theorem loadGromBytes_inv (h : GsqInv g) (base : BitVec 4) (o : Word) (bytes : List Byte) :
    GsqInv (loadGromBytes base o bytes g) := by
  induction bytes generalizing o g with
  | nil => exact h
  | cons v bytes ih => exact ih (gromStore_inv h base o v) (o + 1)

theorem populate_inv (h : GsqInv g) (base : BitVec 4) : GsqInv (populate g base) := by
  have base0 : at16 (populate g base).gpop 0 = true := by
    rw [at16_populate, h.2, ite_self]
  refine ⟨fun b => ?_, base0⟩
  unfold populate
  split_ifs <;> exact h.1 b

theorem resetGsq_inv (h : GsqInv g) : GsqInv (resetGsq g) := by
  have base0 : at16 (resetGsq g).gpop 0 = true := by
    rw [at16_resetGsq_gpop, if_pos rfl, h.2]
  refine ⟨forall_at16_put16 (P := fun m => Memory.wf m ∧ Memory.within m 0x10000) (fun b => ?_) ?_ 0, base0⟩
  · rw [at16_replicate]
    exact empty_store _
  · refine ⟨Memory.below_wf (h.1 0).1 _, fun c hc => ?_⟩
    have := Memory.below_within _ _ c hc
    omega

end

/-! ### The CRU -/

section
variable {c : CruUnit}

theorem storeLine_inv (h : CruInv c) {i : Nat} (hi : i < 4096) (v : Bool) : CruInv (storeLine c i v) :=
  ⟨CruLines.write_wf h.1 hi v, h.2⟩

/-- A nonzero clock is a decrementer in range. -/
theorem clk_dec_range {clk : BitVec 14} (h : clk ≠ 0) : 1 ≤ (clk.toNat : Int) ∧ (clk.toNat : Int) < 0x4000 := by
  have := clk.isLt
  have : clk.toNat ≠ 0 := fun zero => h (BitVec.eq_of_toNat_eq zero)
  omega

theorem clockWrite_inv (h : CruInv c) (bit : CruBit) (v : Bool) : CruInv (clockWrite c bit v) := by
  obtain ⟨lines, lo, hi, running⟩ := h
  rw [clockWrite_eq]
  by_cases zero : putBit c.clk (bit.toNat - 1) v = 0
  · rw [if_pos zero]
    exact ⟨lines, lo, hi, fun nonzero => absurd zero nonzero⟩
  · obtain ⟨one, bound⟩ := clk_dec_range zero
    rw [if_neg zero]
    exact ⟨lines, le_trans (by decide) one, bound, fun _ => one⟩

theorem timerTick_inv (h : CruInv c) (n : Nat) : CruInv (timerTick c n) := by
  obtain ⟨lines, lo, hi, running⟩ := h
  rw [timerTick_eq]
  split_ifs with stopped passed
  · exact ⟨lines, lo, hi, running⟩
  · obtain ⟨one, bound⟩ := clk_dec_range stopped
    exact ⟨lines, le_trans (by decide) one, bound, fun _ => one⟩
  · refine ⟨lines, ?_, ?_, fun _ => ?_⟩ <;> show _ <;> dsimp only <;> omega

theorem resetCru_inv : CruInv resetCru :=
  ⟨⟨List.Pairwise.nil, by simp [resetCru]⟩, by decide, by decide, fun h => absurd rfl h⟩

end

/-! ### Images and resets -/

theorem installCart_inv {p : Params} (banks : 0 < p.cartRamBanks) (bytes : List Byte) (inv ram6 ram7 paged : Bool) :
    BscInv p (installCart bytes inv ram6 ram7 paged) := by
  obtain ⟨whole, fits, -⟩ := paddedSize_bounds bytes.length
  exact ⟨⟨Image.padded_wf fits, whole⟩, empty_store _, lt_max_of_lt_right Nat.one_pos, banks⟩

theorem resetBsc_inv {p : Params} (banks : 0 < p.cartRamBanks) {c : BankSwitch} (h : BscInv p c) (kind : ResetKind) :
    BscInv p (resetBsc kind c) := by
  obtain ⟨image, -⟩ := h
  have first {n : Nat} : 0 < max n 1 := lt_max_of_lt_right Nat.one_pos
  cases kind with
  | cold => exact ⟨⟨Image.empty_wf, rfl⟩, empty_store _, first, banks⟩
  | warm => exact ⟨image, empty_store _, first, banks⟩

theorem resetBlock_inv {s : State} (h : s.Inv) (kind : ResetKind) : BlockInv s.params (resetBlock kind s.toBlock) := by
  have block := h.block
  have decoder : BlockInv s.params { s.toBlock with decoder := resetDecoder kind s.decoder, ams := resetAms } := by
    cases kind <;> exact { block with ram := empty_store _, amsMem := empty_store _ }
  exact ((decoder.setBsc (resetBsc_inv (cartRamBanks_pos h) block.bsc kind)).setCru resetCru_inv).setGsq
    (resetGsq_inv block.gsq)

/-! ### Every step -/

/-- Every effect of a well-formed instruction keeps the invariant of the block. -/
theorem Effect.keeps_inv {i : Instr} {s : State} {b : Block} (effect : Effect s i b) (h : s.Inv) (wf : i.wf = true) :
    BlockInv s.params b := by
  have block := h.block
  cases effect with
  | keeps | raises => exact block
  | mwrLoram a d | mwrHiram a d =>
    have stored := (ramWrite16_inv h (evenAddr a) d).block
    rwa [ramWrite16_params s (evenAddr_even a) d] at stored
  | mwrPad a d => exact (setPadWord_inv h a d).block
  | mwrPeriph a d =>
    unfold periphWrite amsRegWrite
    split_ifs <;> exact { block with }
  | mwrCart a d =>
    obtain ⟨-, lo, hi⟩ := evenIn_iff.1 wf
    exact cartWrite_inv h lo (by omega) d
  | mrdGrData a => exact block.setGsq (refilled_inv block.gsq)
  | mrdGrAddr a => exact { block with }
  | mwrGrData a d => exact block.setGsq (gromDataWrite_inv block.gsq _ _ d)
  | mwrGrAddr a d => exact block.setGsq (gromAddrWrite_inv block.gsq d)
  | cwrMode v => exact { block with }
  | cwrTClk bit v => exact block.setCru (clockWrite_inv block.cru bit v)
  | cwrTExit bit v =>
    obtain ⟨n, e, m, a, r, keeps⟩ := normalWrite_keeps bit v { s with cru.tmode := false }
    rw [keeps]
    exact { block with bits := (storeLine_inv block.cru bit.isLt v).1 }
  | cwrNAck v => exact { block with bits := (storeLine_inv block.cru (i := 3) (by decide) v).1 }
  | cwrNMotor v => exact block.setCru (storeLine_inv block.cru (by decide) v)
  | cwrNTapeOut v => exact block.setCru (storeLine_inv block.cru (by decide) v)
  | cwrDsr bit v =>
    obtain ⟨n, e, selected⟩ := dsrSelect_keeps s.params s.decoder bit v
    obtain ⟨m, a, controlled⟩ := amsControl_keeps s.ams bit v
    unfold dsrWrite
    rw [selected, controlled]
    exact { block with bits := (storeLine_inv block.cru bit.isLt v).1 }
  | cwrNStore bit v => exact block.setCru (storeLine_inv block.cru bit.isLt v)
  | tick n => exact block.setCru (timerTick_inv block.cru n)
  | vdpInt v => exact { block with }
  | reset kind => exact resetBlock_inv h kind
  | loadRam a bytes =>
    have stored := (loadRamBytes_inv h a bytes).block
    rwa [loadRamBytes_params] at stored
  | loadGrom base o bytes => exact block.setGsq (populate_inv (loadGromBytes_inv block.gsq base o bytes) base)
  | loadCart bytes inv ram6 ram7 paged =>
    exact block.setBsc (installCart_inv (cartRamBanks_pos h) bytes inv ram6 ram7 paged)
  | loadDsr slot bytes =>
    exact { block with
      dsrImg := forall_fin_iff_at16.2 fun b =>
        forall_at16_put16 (forall_fin_iff_at16.1 block.dsrImg) (Image.ofBytes_wf bytes) slot b }
  | setRam32k v => exact { block with }
  | setAms v => exact { block with }
  | setGram v => exact { block with }
  | restoreState S restored =>
    obtain ⟨b, inv, -, rfl⟩ := exists_block_of_snapshotWellFormed restored
    rwa [snapshotBlock_takeSnapshot]

theorem exec_keeps_inv {i : Instr} {s t : State} (h : s.Inv) (wf : i.wf = true) (run : exec i s = .next t) : t.Inv := by
  obtain ⟨params, -, effect⟩ := effect_of_exec run
  exact ⟨params ▸ h.params, params ▸ effect.keeps_inv h wf⟩

/-- Settles O48: a step is idle or exec of a well-formed instruction, and the queue is no part of the invariant. -/
theorem stepKeepsInvariant : Obligations.StepKeepsInvariant := by
  intro s t h run
  cases queue : s.pending with
  | nil =>
    rw [step_idle queue] at run
    obtain rfl := Host.Outcome.next.inj run
    exact h
  | cons txn rest =>
    rw [step_pending queue] at run
    cases row : decode (issue txn s.cru.tmode) with
    | ok i =>
      rw [perform_ok row] at run
      exact exec_keeps_inv (s := { s with pending := rest }) ⟨h.params, h.block⟩ (wf_of_decode row) run
    | error e =>
      rw [perform_error row] at run
      cases run

/-- Settles O47: every store of the reset state is empty, and every index 0. -/
theorem resetMeetsInvariant : Obligations.ResetMeetsInvariant := by
  have images (b : BitVec 4) : Image.wf (at16 State.reset.decoder.dsrImg b) := by
    rw [show State.reset.decoder.dsrImg = Vector.replicate 16 Image.empty from rfl, at16_replicate]
    exact Image.empty_wf
  have bases (b : BitVec 4) :
      Memory.wf (at16 State.reset.gsq.grom b) ∧ Memory.within (at16 State.reset.gsq.grom b) 0x10000 := by
    rw [show State.reset.gsq.grom = Vector.replicate 16 [] from rfl, at16_replicate]
    exact empty_store _
  exact ⟨by decide, {
    rom := empty_store _
    ram := empty_store _
    dsrImg := forall_fin_iff_at16.2 images
    cartImg := ⟨Image.empty_wf, rfl⟩
    cartRam := empty_store _
    romBank := by decide
    ramBank := by decide
    amsMem := empty_store _
    grom := forall_fin_iff_at16 (P := fun m => Memory.wf m ∧ Memory.within m 0x10000) |>.2 bases
    gpop := rfl
    bits := resetCru_inv.1
    dec := resetCru_inv.2 }⟩

/-- Settles O36: construction makes the reset state, whose elements are literal. -/
theorem resetStateValues : Obligations.ResetStateValues := by
  refine ⟨?_, rfl, rfl, rfl, rfl, rfl, rfl, rfl, rfl, rfl, rfl, rfl, rfl, rfl, rfl⟩
  decide

end Sys2Proof.Machine
end

section
/-! Which instructions may change which elements (10_state.md sections 1.2 to 1.6, 60_exceptions.md section 7.2): the
writers of the settings, images, banks and AMS controls, of the GROM sequencer and the timer, and of the interrupt
lines, each read off the effects. -/

namespace Sys2Proof.Machine

/-! ### What the shared effects leave alone -/

theorem ramWrite16_keeps (s : State) (a d : Word) :
    ∃ m1 m2, ramWrite16 s (evenAddr a) d = { s with decoder.ram := m1, ams.mem := m2 } := by
  rw [ramWrite16_eq s (evenAddr_even a)]
  cases amsPhys s.params s.ams (evenAddr a) <;> split_ifs <;> exact ⟨_, _, rfl⟩

/-- Only AMS_REG can change, and only while the overlay is shown. -/
theorem periphWrite_keeps (s : State) (e d : Word) :
    ∃ R, periphWrite s e d = { s with ams.reg := R } ∧
      (s.decoder.amsEn = false ∨ s.ams.acc = false → R = s.ams.reg) := by
  by_cases shown : s.decoder.amsEn = true ∧ s.ams.acc = true
  · obtain ⟨en, acc⟩ := shown
    exact ⟨_, periphWrite_shown en acc e d, by simp [en, acc]⟩
  · exact ⟨s.ams.reg, periphWrite_hidden shown e d, fun _ => rfl⟩

theorem dsrWrite_keeps (bit : CruBit) (v : Bool) (s : State) :
    ∃ n e m a, dsrWrite bit v s = { s with
      cru := storeLine s.cru bit.toNat v
      decoder := { s.decoder with dsrSel := n, dsrEn := e }
      ams := { s.ams with mode := m, acc := a }
      reply := ⟨.nothing, 0, [], none⟩ } := by
  obtain ⟨n, e, selected⟩ := dsrSelect_keeps s.params s.decoder bit v
  obtain ⟨m, a, controlled⟩ := amsControl_keeps s.ams bit v
  refine ⟨n, e, m, a, ?_⟩
  unfold dsrWrite
  rw [selected, controlled]
  rfl

/-- A write of the cartridge window changes CART_RAM and the banks. -/
theorem cartWrite_keeps (p : Params) (b : BankSwitch) (e d : Word) :
    ∃ m r q, cartWrite p b e d = { b with cartRam := m, romBank := r, ramBank := q } := by
  unfold cartWrite
  split_ifs
  · exact ⟨_, _, _, rfl⟩
  · obtain ⟨r, q, selected, -⟩ := bankSelect_keeps p b e d
    exact ⟨_, r, q, selected⟩

/-- A data write changes the bases, the latches and the cursor; with GRAM off not even these. -/
theorem gromDataWrite_keeps (en : Bool) (g : GromSeq) (e d : Word) :
    ∃ G P c, gromDataWrite en g e d = { g with grom := G, gpref := P, gaddr := c } ∧ (en = false → G = g.grom) := by
  unfold gromDataWrite
  split_ifs with gram
  · exact ⟨_, _, _, ginc_grefill _, fun off => absurd gram (by simp [off])⟩
  · exact ⟨g.grom, g.gpref, g.gaddr, rfl, fun _ => rfl⟩

/-- An address write changes the latches, the cursor and the phase. -/
theorem gromAddrWrite_keeps (g : GromSeq) (d : Word) :
    ∃ P c f, gromAddrWrite g d = { g with gpref := P, gaddr := c, gphase := f } := by
  cases phase : g.gphase with
  | one => exact ⟨_, _, .two, by rw [gromAddrWrite_second phase, ginc_grefill]⟩
  | two => exact ⟨_, _, .one, gromAddrWrite_first phase d⟩

/-- A GROM load changes the bases and the populated flags. -/
theorem loadGrom_keeps (g : GromSeq) (base : BitVec 4) (o : Word) (bytes : List Byte) :
    ∃ G F, populate (loadGromBytes base o bytes g) base = { g with grom := G, gpop := F } := by
  obtain ⟨G, loaded⟩ := loadGromBytes_keeps base bytes o g
  rw [loaded]
  unfold populate
  split_ifs <;> exact ⟨_, _, rfl⟩

/-! ### Settings, images, banks and AMS controls -/

/-- The writers of 10_state.md sections 1.2 to 1.4, as O51 names them: what of a block an instruction may change. -/
def ControlWriters (i : Instr) (s : State) (b : Block) : Prop :=
  ((∀ v, i ≠ .setRam32k v) → b.decoder.ram32kEn = s.decoder.ram32kEn) ∧
  ((∀ v, i ≠ .setAms v) → b.decoder.amsEn = s.decoder.amsEn) ∧
  ((∀ v, i ≠ .setGram v) → b.decoder.gramEn = s.decoder.gramEn) ∧
  ((∀ n bs, i ≠ .loadDsr n bs) → b.decoder.dsrImg = s.decoder.dsrImg) ∧
  ((∀ bs f1 f2 f3 f4, i ≠ .loadCart bs f1 f2 f3 f4) → i ≠ .reset .cold → b.bsc.cartImg = s.bsc.cartImg) ∧
  ((∀ k, i ≠ .reset k) →
    ((∀ a d, i ≠ .mwrPeriph a d) ∨ s.decoder.amsEn = false ∨ s.ams.acc = false → b.ams.reg = s.ams.reg) ∧
    ((∀ bit v, i ≠ .cwrDsr bit v ∧ i ≠ .cwrTExit bit v) →
      b.ams.mode = s.ams.mode ∧ b.ams.acc = s.ams.acc ∧ b.decoder.dsrSel = s.decoder.dsrSel ∧
        b.decoder.dsrEn = s.decoder.dsrEn) ∧
    ((∀ a d, i ≠ .mwrCart a d) → (∀ bs f1 f2 f3 f4, i ≠ .loadCart bs f1 f2 f3 f4) →
      b.bsc.romBank = s.bsc.romBank ∧ b.bsc.ramBank = s.bsc.ramBank))

/-- An effect that writes bytes of RAM, AMS_MEM and CART_RAM, the CRU and the sequencer touches no control. -/
theorem controlWriters_of_stores (i : Instr) (s : State) (m1 m2 m3 : Memory) (c : CruUnit) (g : GromSeq) :
    ControlWriters i s
      ⟨{ s.decoder with ram := m1 }, { s.bsc with cartRam := m3 }, { s.ams with mem := m2 }, c, g⟩ :=
  ⟨fun _ => rfl, fun _ => rfl, fun _ => rfl, fun _ => rfl, fun _ _ => rfl,
    fun _ => ⟨fun _ => rfl, fun _ => ⟨rfl, rfl, rfl, rfl⟩, fun _ _ => ⟨rfl, rfl⟩⟩⟩

/-- A DSR-space write, by either row, touches only the selection and the AMS flags. -/
theorem controlWriters_of_dsr {i : Instr} (s : State) (bit : CruBit) (v : Bool)
    (row : i = .cwrDsr bit v ∨ i = .cwrTExit bit v) (n : BitVec 4) (e m a : Bool) (c : CruUnit) :
    ControlWriters i s
      ⟨{ s.decoder with dsrSel := n, dsrEn := e }, s.bsc, { s.ams with mode := m, acc := a }, c, s.gsq⟩ :=
  ⟨fun _ => rfl, fun _ => rfl, fun _ => rfl, fun _ => rfl, fun _ _ => rfl,
    fun _ => ⟨fun _ => rfl, fun h => absurd row (not_or.2 (h bit v)), fun _ _ => ⟨rfl, rfl⟩⟩⟩

theorem Effect.controlWriters {i : Instr} {s : State} {b : Block} (effect : Effect s i b) :
    (∃ S, i = .restoreState S) ∨ ControlWriters i s b := by
  cases effect with
  | restoreState S => exact Or.inl ⟨S, rfl⟩
  | keeps | raises | mwrPad | mrdGrData | mrdGrAddr | mwrGrData | mwrGrAddr | cwrMode | cwrTClk | cwrNAck | cwrNMotor
  | cwrNTapeOut | cwrNStore | tick | vdpInt | loadGrom => exact Or.inr (controlWriters_of_stores _ s _ _ _ _ _)
  | mwrLoram a d | mwrHiram a d =>
    obtain ⟨m1, m2, keeps⟩ := ramWrite16_keeps s a d
    rw [keeps]
    exact Or.inr (controlWriters_of_stores _ s _ _ _ _ _)
  | loadRam a bytes =>
    obtain ⟨m1, m2, m3, keeps⟩ := loadRamBytes_keeps bytes a s
    rw [keeps]
    exact Or.inr (controlWriters_of_stores _ s _ _ _ _ _)
  | mwrPeriph a d =>
    obtain ⟨R, keeps, hidden⟩ := periphWrite_keeps s (evenAddr a) d
    rw [keeps]
    exact Or.inr ⟨fun _ => rfl, fun _ => rfl, fun _ => rfl, fun _ => rfl, fun _ _ => rfl,
      fun _ => ⟨fun h => hidden (h.resolve_left fun other => other a d rfl), fun _ => ⟨rfl, rfl, rfl, rfl⟩,
        fun _ _ => ⟨rfl, rfl⟩⟩⟩
  | mwrCart a d =>
    obtain ⟨m, r, q, keeps⟩ := cartWrite_keeps s.params s.bsc (evenAddr a) d
    rw [keeps]
    exact Or.inr ⟨fun _ => rfl, fun _ => rfl, fun _ => rfl, fun _ => rfl, fun _ _ => rfl,
      fun _ => ⟨fun _ => rfl, fun _ => ⟨rfl, rfl, rfl, rfl⟩, fun other => absurd rfl (other a d)⟩⟩
  | cwrTExit bit v =>
    obtain ⟨n, e, m, a, r, keeps⟩ := normalWrite_keeps bit v { s with cru.tmode := false }
    rw [keeps]
    exact Or.inr (controlWriters_of_dsr s bit v (Or.inr rfl) n e m a _)
  | cwrDsr bit v =>
    obtain ⟨n, e, m, a, keeps⟩ := dsrWrite_keeps bit v s
    rw [keeps]
    exact Or.inr (controlWriters_of_dsr s bit v (Or.inl rfl) n e m a _)
  | reset kind =>
    refine Or.inr ⟨fun _ => ?_, fun _ => ?_, fun _ => ?_, fun _ => ?_, fun _ notCold => ?_,
      fun other => absurd rfl (other kind)⟩
    case refine_5 =>
      cases kind with
      | cold => exact absurd rfl notCold
      | warm => rfl
    all_goals cases kind <;> rfl
  | loadCart bytes f1 f2 f3 f4 =>
    exact Or.inr ⟨fun _ => rfl, fun _ => rfl, fun _ => rfl, fun _ => rfl,
      fun other => absurd rfl (other bytes f1 f2 f3 f4),
      fun _ => ⟨fun _ => rfl, fun _ => ⟨rfl, rfl, rfl, rfl⟩, fun _ other => absurd rfl (other bytes f1 f2 f3 f4)⟩⟩
  | loadDsr n bytes =>
    exact Or.inr ⟨fun _ => rfl, fun _ => rfl, fun _ => rfl, fun other => absurd rfl (other n bytes), fun _ _ => rfl,
      fun _ => ⟨fun _ => rfl, fun _ => ⟨rfl, rfl, rfl, rfl⟩, fun _ _ => ⟨rfl, rfl⟩⟩⟩
  | setRam32k v =>
    exact Or.inr ⟨fun other => absurd rfl (other v), fun _ => rfl, fun _ => rfl, fun _ => rfl, fun _ _ => rfl,
      fun _ => ⟨fun _ => rfl, fun _ => ⟨rfl, rfl, rfl, rfl⟩, fun _ _ => ⟨rfl, rfl⟩⟩⟩
  | setAms v =>
    exact Or.inr ⟨fun _ => rfl, fun other => absurd rfl (other v), fun _ => rfl, fun _ => rfl, fun _ _ => rfl,
      fun _ => ⟨fun _ => rfl, fun _ => ⟨rfl, rfl, rfl, rfl⟩, fun _ _ => ⟨rfl, rfl⟩⟩⟩
  | setGram v =>
    exact Or.inr ⟨fun _ => rfl, fun _ => rfl, fun other => absurd rfl (other v), fun _ => rfl, fun _ _ => rfl,
      fun _ => ⟨fun _ => rfl, fun _ => ⟨rfl, rfl, rfl, rfl⟩, fun _ _ => ⟨rfl, rfl⟩⟩⟩

/-- No effect changes the console ROM (10_state.md R23). -/
theorem Effect.rom_eq {i : Instr} {s : State} {b : Block} (effect : Effect s i b) : b.decoder.rom = s.decoder.rom := by
  cases effect with
  | mwrLoram a d | mwrHiram a d =>
    obtain ⟨m1, m2, keeps⟩ := ramWrite16_keeps s a d
    rw [keeps]
  | loadRam a bytes =>
    obtain ⟨m1, m2, m3, keeps⟩ := loadRamBytes_keeps bytes a s
    rw [keeps]
  | mwrPeriph a d =>
    obtain ⟨R, keeps, -⟩ := periphWrite_keeps s (evenAddr a) d
    rw [keeps]
  | cwrTExit bit v =>
    obtain ⟨n, e, m, a, r, keeps⟩ := normalWrite_keeps bit v { s with cru.tmode := false }
    rw [keeps]
  | cwrDsr bit v =>
    obtain ⟨n, e, m, a, keeps⟩ := dsrWrite_keeps bit v s
    rw [keeps]
  | reset kind => cases kind <;> rfl
  | restoreState S wf => exact snapshotBlock_rom wf
  | _ => rfl

/-- Settles O51: every effect stays within the writers. -/
theorem controlStateWriters : Obligations.ControlStateWriters := by
  intro i s t run
  obtain ⟨params, pending, effect⟩ := effect_of_exec run
  exact ⟨params, pending, effect.rom_eq, effect.controlWriters⟩

/-! ### The GROM sequencer, the timer and the flags -/

/-- The instructions that change the sequencer, apart from RESET and RESTORE_STATE. -/
def SequencerWriters (i : Instr) (s : State) (g : GromSeq) : Prop :=
  ((∀ a, i ≠ .mrdGrData a) → (∀ a d, i ≠ .mwrGrData a d ∧ i ≠ .mwrGrAddr a d) →
    g.gpref = s.gsq.gpref ∧ ((∀ a, i ≠ .mrdGrAddr a) → g.gaddr = s.gsq.gaddr)) ∧
  ((∀ a d, i ≠ .mwrGrAddr a d) → g.gphase = s.gsq.gphase) ∧
  ((∀ b o bs, i ≠ .loadGrom b o bs) → g.gpop = s.gsq.gpop ∧
    ((∀ a d, i ≠ .mwrGrData a d) ∨ s.decoder.gramEn = false → g.grom = s.gsq.grom))

/-- The instructions that change the CRU's mode, clock and flags, apart from RESET and RESTORE_STATE. -/
def TimerWriters (i : Instr) (s : State) (c : CruUnit) : Prop :=
  ((∀ v, i ≠ .cwrMode v) → (∀ bit v, i ≠ .cwrTExit bit v) → c.tmode = s.cru.tmode) ∧
  ((∀ bit v, i ≠ .cwrTClk bit v) → c.clk = s.cru.clk ∧ ((∀ n, i ≠ .tick n) → c.dec = s.cru.dec)) ∧
  ((∀ n, i ≠ .tick n) → c.elapsed = s.cru.elapsed ∧ (c.tint = true → s.cru.tint = true)) ∧
  ((∀ v, i ≠ .cwrNAck v) → s.cru.tint = true → c.tint = true) ∧
  ((∀ v, i ≠ .vdpInt v) → c.vint = s.cru.vint)

theorem sequencerWriters_same (i : Instr) (s : State) : SequencerWriters i s s.gsq :=
  ⟨fun _ _ => ⟨rfl, fun _ => rfl⟩, fun _ => rfl, fun _ => ⟨rfl, fun _ => rfl⟩⟩

/-- A write of a CRU line changes no flag and nothing of the timer. -/
theorem timerWriters_of_lines (i : Instr) (s : State) (l : CruLines) : TimerWriters i s { s.cru with bits := l } :=
  ⟨fun _ _ => rfl, fun _ => ⟨rfl, fun _ => rfl⟩, fun _ => ⟨rfl, id⟩, fun _ => id, fun _ => rfl⟩

theorem Effect.sequencerWriters {i : Instr} {s : State} {b : Block} (effect : Effect s i b) :
    (∃ S, i = .restoreState S) ∨ (∃ k, i = .reset k) ∨ SequencerWriters i s b.gsq := by
  have same := sequencerWriters_same i s
  cases effect with
  | restoreState S => exact Or.inl ⟨S, rfl⟩
  | reset kind => exact Or.inr (Or.inl ⟨kind, rfl⟩)
  | mwrLoram a d | mwrHiram a d =>
    obtain ⟨m1, m2, keeps⟩ := ramWrite16_keeps s a d
    rw [keeps]
    exact Or.inr (Or.inr same)
  | loadRam a bytes =>
    obtain ⟨m1, m2, m3, keeps⟩ := loadRamBytes_keeps bytes a s
    rw [keeps]
    exact Or.inr (Or.inr same)
  | mwrPeriph a d =>
    obtain ⟨R, keeps, -⟩ := periphWrite_keeps s (evenAddr a) d
    rw [keeps]
    exact Or.inr (Or.inr same)
  | cwrTExit bit v =>
    obtain ⟨n, e, m, a, r, keeps⟩ := normalWrite_keeps bit v { s with cru.tmode := false }
    rw [keeps]
    exact Or.inr (Or.inr same)
  | mrdGrData a =>
    rw [ginc_grefill]
    exact Or.inr (Or.inr ⟨fun other => absurd rfl (other a), fun _ => rfl, fun _ => ⟨rfl, fun _ => rfl⟩⟩)
  | mrdGrAddr a =>
    exact Or.inr (Or.inr ⟨fun _ _ => ⟨rfl, fun other => absurd rfl (other a)⟩, fun _ => rfl,
      fun _ => ⟨rfl, fun _ => rfl⟩⟩)
  | mwrGrData a d =>
    obtain ⟨G, P, c, keeps, off⟩ := gromDataWrite_keeps s.decoder.gramEn s.gsq (evenAddr a) d
    rw [keeps]
    exact Or.inr (Or.inr ⟨fun _ other => absurd rfl (other a d).1, fun _ => rfl,
      fun _ => ⟨rfl, fun h => off (h.resolve_left fun other => other a d rfl)⟩⟩)
  | mwrGrAddr a d =>
    obtain ⟨P, c, f, keeps⟩ := gromAddrWrite_keeps s.gsq d
    rw [keeps]
    exact Or.inr (Or.inr ⟨fun _ other => absurd rfl (other a d).2, fun other => absurd rfl (other a d),
      fun _ => ⟨rfl, fun _ => rfl⟩⟩)
  | loadGrom base o bytes =>
    obtain ⟨G, F, keeps⟩ := loadGrom_keeps s.gsq base o bytes
    rw [keeps]
    exact Or.inr (Or.inr ⟨fun _ _ => ⟨rfl, fun _ => rfl⟩, fun _ => rfl, fun other => absurd rfl (other base o bytes)⟩)
  | _ => exact Or.inr (Or.inr same)

theorem timerTick_keeps (c : CruUnit) (n : Nat) :
    ∃ d t, timerTick c n = { c with elapsed := c.elapsed + n, dec := d, tint := t } ∧ (c.tint = true → t = true) := by
  rw [timerTick_eq]
  split_ifs
  · exact ⟨c.dec, c.tint, rfl, id⟩
  · exact ⟨_, true, rfl, fun _ => rfl⟩
  · exact ⟨_, c.tint, rfl, id⟩

theorem Effect.timerWriters {i : Instr} {s : State} {b : Block} (effect : Effect s i b) :
    (∃ S, i = .restoreState S) ∨ (∃ k, i = .reset k) ∨ TimerWriters i s b.cru := by
  have lines := timerWriters_of_lines i s
  have same := lines s.cru.bits
  cases effect with
  | restoreState S => exact Or.inl ⟨S, rfl⟩
  | reset kind => exact Or.inr (Or.inl ⟨kind, rfl⟩)
  | mwrLoram a d | mwrHiram a d =>
    obtain ⟨m1, m2, keeps⟩ := ramWrite16_keeps s a d
    rw [keeps]
    exact Or.inr (Or.inr same)
  | loadRam a bytes =>
    obtain ⟨m1, m2, m3, keeps⟩ := loadRamBytes_keeps bytes a s
    rw [keeps]
    exact Or.inr (Or.inr same)
  | mwrPeriph a d =>
    obtain ⟨R, keeps, -⟩ := periphWrite_keeps s (evenAddr a) d
    rw [keeps]
    exact Or.inr (Or.inr same)
  | cwrMode v =>
    exact Or.inr (Or.inr ⟨fun other => absurd rfl (other v), fun _ => ⟨rfl, fun _ => rfl⟩, fun _ => ⟨rfl, id⟩,
      fun _ => id, fun _ => rfl⟩)
  | cwrTClk bit v =>
    exact Or.inr (Or.inr ⟨fun _ _ => rfl, fun other => absurd rfl (other bit v), fun _ => ⟨rfl, id⟩, fun _ => id,
      fun _ => rfl⟩)
  | cwrTExit bit v =>
    obtain ⟨n, e, m, a, r, keeps⟩ := normalWrite_keeps bit v { s with cru.tmode := false }
    rw [keeps]
    exact Or.inr (Or.inr ⟨fun _ other => absurd rfl (other bit v), fun _ => ⟨rfl, fun _ => rfl⟩, fun _ => ⟨rfl, id⟩,
      fun _ => id, fun _ => rfl⟩)
  | cwrNAck v =>
    exact Or.inr (Or.inr ⟨fun _ _ => rfl, fun _ => ⟨rfl, fun _ => rfl⟩, fun _ => ⟨rfl, fun raised => nomatch raised⟩,
      fun other => absurd rfl (other v), fun _ => rfl⟩)
  | cwrNMotor v | cwrNTapeOut v | cwrNStore bit v => exact Or.inr (Or.inr (lines _))
  | cwrDsr bit v =>
    obtain ⟨n, e, m, a, keeps⟩ := dsrWrite_keeps bit v s
    rw [keeps]
    exact Or.inr (Or.inr (lines _))
  | tick n =>
    obtain ⟨d, t, keeps, kept⟩ := timerTick_keeps s.cru n
    rw [keeps]
    exact Or.inr (Or.inr ⟨fun _ _ => rfl, fun _ => ⟨rfl, fun other => absurd rfl (other n)⟩,
      fun other => absurd rfl (other n), fun _ => kept, fun _ => rfl⟩)
  | vdpInt v =>
    exact Or.inr (Or.inr ⟨fun _ _ => rfl, fun _ => ⟨rfl, fun _ => rfl⟩, fun _ => ⟨rfl, id⟩, fun _ => id,
      fun other => absurd rfl (other v)⟩)
  | _ => exact Or.inr (Or.inr same)

/-- Settles O52: the writers of the sequencer and those of the timer, each unit's from its own law. -/
theorem sequencerAndTimerWriters : Obligations.SequencerAndTimerWriters := by
  intro i s t run
  obtain ⟨-, -, effect⟩ := effect_of_exec run
  obtain restore | reset | ⟨latches, phase, bases⟩ := effect.sequencerWriters
  · exact Or.inl restore
  · exact Or.inr (Or.inl reset)
  obtain restore | reset | timer := effect.timerWriters
  · exact Or.inl restore
  · exact Or.inr (Or.inl reset)
  exact Or.inr (Or.inr ⟨latches, phase, bases, timer⟩)

/-! ### The interrupt lines -/

theorem intVdp_eq (c : CruUnit) : intVdp c = (c.vint && CruLines.read c.bits 2) := rfl

theorem intTimer_eq (c : CruUnit) : intTimer c = (c.tint && CruLines.read c.bits 3) := rfl

theorem intVdp_storeLine (c : CruUnit) {n : Nat} (h : n ≠ 2) (v : Bool) : intVdp (storeLine c n v) = intVdp c := by
  rw [intVdp_eq, read_storeLine, if_neg (Ne.symm h)]
  rfl

theorem intTimer_storeLine (c : CruUnit) {n : Nat} (h : n ≠ 3) (v : Bool) :
    intTimer (storeLine c n v) = intTimer c := by
  rw [intTimer_eq, read_storeLine, if_neg (Ne.symm h)]
  rfl

/-- The causes of 60_exceptions.md section 7.2, as O53 names them: which lines an instruction may move. -/
def LineCauses (i : Instr) (s : State) (c : CruUnit) : Prop :=
  (intTimer c = true → intTimer s.cru = false → ∃ n, i = .tick n) ∧
  (intTimer c = false → intTimer s.cru = true → (∃ v, i = .cwrNAck v) ∨ ∃ k, i = .reset k) ∧
  (∀ v, i = .cwrNAck v → intTimer c = false) ∧
  (intVdp c = true → intVdp s.cru = false → i = .vdpInt true ∨ i = .cwrNStore 2 true) ∧
  (intVdp c = false → intVdp s.cru = true → i = .vdpInt false ∨ i = .cwrNStore 2 false ∨ ∃ k, i = .reset k)

section
variable {i : Instr} {s : State} {c : CruUnit}

/-- An instruction that moves neither line needs no cause. -/
theorem lineCauses_of_same (notAck : ∀ v, i ≠ .cwrNAck v) (timer : intTimer c = intTimer s.cru)
    (vdp : intVdp c = intVdp s.cru) : LineCauses i s c := by
  refine ⟨fun up down => ?_, fun down up => ?_, fun v ack => absurd ack (notAck v), fun up down => ?_, fun down up => ?_⟩
  · simp [timer, down] at up
  · simp [timer, up] at down
  · simp [vdp, down] at up
  · simp [vdp, up] at down

/-- A write of any line but 2 and 3 moves neither. -/
theorem lineCauses_of_storeLine (notAck : ∀ v, i ≠ .cwrNAck v) {n : Nat} (not2 : n ≠ 2) (not3 : n ≠ 3) (v : Bool) :
    LineCauses i s (storeLine s.cru n v) :=
  lineCauses_of_same notAck (intTimer_storeLine s.cru not3 v) (intVdp_storeLine s.cru not2 v)

theorem lineCauses_tick (n : Nat) : LineCauses (.tick n) s (timerTick s.cru n) := by
  obtain ⟨d, t, keeps, kept⟩ := timerTick_keeps s.cru n
  rw [keeps]
  refine ⟨fun _ _ => ⟨n, rfl⟩, fun down up => ?_, by simp, fun up down => ?_, fun down up => ?_⟩
  · obtain ⟨flag, enable⟩ := Bool.and_eq_true_iff.1 ((intTimer_eq s.cru).symm.trans up)
    simp [intTimer_eq, kept flag, enable] at down
  · exact absurd (up.symm.trans down) (by decide)
  · exact absurd (up.symm.trans down) (by decide)

theorem lineCauses_ack (v : Bool) : LineCauses (.cwrNAck v) s { storeLine s.cru 3 v with tint := false } := by
  have vdp : intVdp { storeLine s.cru 3 v with tint := false } = intVdp s.cru :=
    intVdp_storeLine s.cru (by decide) v
  refine ⟨fun up => absurd up (by simp [intTimer]), fun _ _ => Or.inl ⟨v, rfl⟩, fun _ _ => rfl, fun up down => ?_,
    fun down up => ?_⟩
  · exact absurd ((vdp.symm.trans up).symm.trans down) (by decide)
  · exact absurd ((vdp.symm.trans down).symm.trans up) (by decide)

theorem lineCauses_vdpInt (v : Bool) : LineCauses (.vdpInt v) s { s.cru with vint := v } := by
  refine ⟨fun up down => ?_, fun down up => ?_, by simp, fun up down => ?_, fun down up => ?_⟩
  · exact absurd (up.symm.trans down) (by decide)
  · exact absurd (up.symm.trans down) (by decide)
  · obtain ⟨rfl, -⟩ := Bool.and_eq_true_iff.1 ((intVdp_eq _).symm.trans up)
    exact Or.inl rfl
  · obtain ⟨-, enable⟩ := Bool.and_eq_true_iff.1 ((intVdp_eq s.cru).symm.trans up)
    obtain rfl : v = false := by simpa [intVdp_eq, enable] using down
    exact Or.inl rfl

theorem lineCauses_reset (kind : ResetKind) : LineCauses (.reset kind) s resetCru :=
  ⟨fun up => absurd up (by decide), fun _ _ => Or.inr ⟨kind, rfl⟩, fun _ _ => rfl, fun up => absurd up (by decide),
    fun _ _ => Or.inr (Or.inr ⟨kind, rfl⟩)⟩

/-- A plain stored write moves a line only as the enable of bit 2: bit 3 belongs to another row. -/
theorem lineCauses_store {bit : CruBit} (wf : (Instr.cwrNStore bit v).wf = true) :
    LineCauses (.cwrNStore bit v) s (storeLine s.cru bit.toNat v) := by
  by_cases enable : bit = 2
  · subst enable
    have timer : intTimer (storeLine s.cru 2 v) = intTimer s.cru := intTimer_storeLine s.cru (by decide) v
    have vdp : intVdp (storeLine s.cru 2 v) = (s.cru.vint && v) := by
      rw [intVdp_eq, read_storeLine, if_pos rfl]
      rfl
    refine ⟨fun up down => ?_, fun down up => ?_, by simp, fun up _ => ?_, fun down up => ?_⟩
    · exact absurd ((timer.symm.trans up).symm.trans down) (by decide)
    · exact absurd ((timer.symm.trans down).symm.trans up) (by decide)
    · obtain ⟨-, rfl⟩ := Bool.and_eq_true_iff.1 (vdp.symm.trans up)
      exact Or.inr rfl
    · obtain ⟨flag, -⟩ := Bool.and_eq_true_iff.1 ((intVdp_eq s.cru).symm.trans up)
      obtain rfl : v = false := by simpa [flag] using vdp.symm.trans down
      exact Or.inr (Or.inl rfl)
  · have not2 : bit.toNat ≠ 2 := fun two => enable (BitVec.eq_of_toNat_eq two)
    simp only [Instr.wf, Bool.or_eq_true, bitIn_iff] at wf
    exact lineCauses_of_storeLine (by simp) not2 (by omega) v

end

theorem Effect.lineCauses {i : Instr} {s : State} {b : Block} (effect : Effect s i b) (wf : i.wf = true) :
    (∃ S, i = .restoreState S) ∨ LineCauses i s b.cru := by
  cases effect with
  | restoreState S => exact Or.inl ⟨S, rfl⟩
  | keeps quiet =>
    refine Or.inr (lineCauses_of_same ?_ rfl rfl)
    rintro v rfl
    cases quiet
  | raises host =>
    refine Or.inr (lineCauses_of_same ?_ rfl rfl)
    rintro v rfl
    cases host
  | mwrLoram a d | mwrHiram a d =>
    obtain ⟨m1, m2, keeps⟩ := ramWrite16_keeps s a d
    rw [keeps]
    exact Or.inr (lineCauses_of_same (by simp) rfl rfl)
  | loadRam a bytes =>
    obtain ⟨m1, m2, m3, keeps⟩ := loadRamBytes_keeps bytes a s
    rw [keeps]
    exact Or.inr (lineCauses_of_same (by simp) rfl rfl)
  | mwrPeriph a d =>
    obtain ⟨R, keeps, -⟩ := periphWrite_keeps s (evenAddr a) d
    rw [keeps]
    exact Or.inr (lineCauses_of_same (by simp) rfl rfl)
  | cwrTExit bit v =>
    obtain ⟨lo, -⟩ := bitIn_iff.1 wf
    obtain ⟨n, e, m, a, r, keeps⟩ := normalWrite_keeps bit v { s with cru.tmode := false }
    rw [keeps]
    exact Or.inr (lineCauses_of_same (by simp)
      (intTimer_storeLine s.cru (by omega) v) (intVdp_storeLine s.cru (by omega) v))
  | cwrDsr bit v =>
    obtain ⟨lo, -⟩ := bitIn_iff.1 wf
    obtain ⟨n, e, m, a, keeps⟩ := dsrWrite_keeps bit v s
    rw [keeps]
    exact Or.inr (lineCauses_of_storeLine (by simp) (by omega) (by omega) v)
  | cwrNMotor v | cwrNTapeOut v =>
    exact Or.inr (lineCauses_of_storeLine (by simp) (by decide) (by decide) v)
  | cwrNStore bit v => exact Or.inr (lineCauses_store wf)
  | cwrNAck v => exact Or.inr (lineCauses_ack v)
  | tick n => exact Or.inr (lineCauses_tick n)
  | vdpInt v => exact Or.inr (lineCauses_vdpInt v)
  | reset kind =>
    exact Or.inr (lineCauses_reset kind)
  | _ => exact Or.inr (lineCauses_of_same (by simp) rfl rfl)

/-- Settles O53: the lines are their definitions, and every effect has its cause. -/
theorem interruptLineCauses : Obligations.InterruptLineCauses := by
  refine ⟨fun c => ⟨intVdp_eq c, intTimer_eq c⟩, fun i s t wf run => ?_⟩
  obtain ⟨-, -, effect⟩ := effect_of_exec run
  exact effect.lineCauses wf

end Sys2Proof.Machine
end

section
/-! AMS translation as the rule writes it (20_memory.md R66, R67), and a word written to RAM or the scratchpad read back
through whatever storage answers (20_memory.md sections 2.3 and 2.5). -/

namespace Sys2Proof.Machine

/-! ### AMS translation -/

theorem amsWindow_eq_ofNat (a : Word) : amsWindow a = BitVec.ofNat 4 (a.toNat / 0x1000) := by
  have := a.isLt
  rw [BitVec.toNat_eq, amsWindow_toNat, BitVec.toNat_ofNat]
  omega

/-- The sum of R66's two parts is their OR: the low twelve bits of the first are 0. -/
theorem page_offset_eq_or (page a : Nat) : page * 0x1000 + a % 0x1000 = (page <<< 12) ||| (a &&& 0x0FFF) := by
  rw [Nat.and_two_pow_sub_one_eq_mod a 12, ← Nat.shiftLeft_add_eq_or_of_lt (Nat.mod_lt a (Nat.two_pow_pos 12)),
    Nat.shiftLeft_eq]

theorem amsPhys_eq (p : Params) (u : PageMapper) (a : Word) :
    amsPhys p u a =
      (amsPage u (amsWindow a)).map fun page => ((page &&& (p.amsPages - 1)) <<< 12) ||| (a.toNat &&& 0x0FFF) := by
  simp only [amsPhys, page_offset_eq_or]

/-- The eight windows of the transparent table (10_state.md R36). -/
theorem tmap_eq (w : BitVec 4) :
    tmap w = if w.toNat ∈ [2, 3, 10, 11, 12, 13, 14, 15] then some w.toNat else none := by
  have bound := w.isLt
  have windows : w.toNat = 2 ∨ w.toNat = 3 ∨ 10 ≤ w.toNat ↔ w.toNat ∈ [2, 3, 10, 11, 12, 13, 14, 15] := by
    simp only [List.mem_cons, List.not_mem_nil, or_false]
    omega
  simp only [tmap, windows]

theorem amsSet_eq_of_some {p : Params} {u : PageMapper} {a : Word} {x : Nat} (phys : amsPhys p u a = some x) (b : Byte) :
    amsSet p u a b = { u with mem := Memory.write u.mem x b } := by
  rw [amsSet, phys]

theorem amsSet_eq_of_none {p : Params} {u : PageMapper} {a : Word} (phys : amsPhys p u a = none) (b : Byte) :
    amsSet p u a b = u := by
  rw [amsSet, phys]

/-- A get after a set answers the byte set wherever the two addresses translate to one place. -/
theorem amsGet_amsSet {p : Params} {u : PageMapper} {a : Word} {x : Nat} (phys : amsPhys p u a = some x) (b : Byte)
    (c : Word) : amsGet p (amsSet p u a b) c = if amsPhys p u c = some x then b else amsGet p u c := by
  rw [amsSet_eq_of_some phys, amsGet, amsGet, amsPhys_mem]
  cases amsPhys p u c with
  | none => simp
  | some y => simp [Memory.read_write]

/-- Settles O50: R66 for each table, then the byte primitives and the second byte of a word. -/
theorem amsTranslation : Obligations.AmsTranslation := by
  rintro p u a w hw
  obtain rfl : w = amsWindow a := hw.trans (amsWindow_eq_ofNat a).symm
  refine ⟨fun mapping => ?_, fun transparent => ?_, fun ⟨_, pages, _⟩ x phys => amsPhys_lt (by omega) u phys, rfl,
    fun b phys => amsSet_eq_of_none phys b, fun b c x phys => amsGet_amsSet phys b c, fun even x phys => ?_⟩
  · rw [amsPhys_eq, amsPage, if_pos mapping]
    rfl
  · rw [amsPhys_eq, amsPage, if_neg (by simp [transparent]), tmap_eq]
    split_ifs <;> rfl
  · rw [amsPhys_succ p u even, phys]
    rfl

/-! ### Read after write -/

theorem Memory.readWord_writeWord (m : Memory) (i : Nat) (d : Word) :
    Memory.readWord (Memory.writeWord m i d) i = d := by
  simp [Memory.readWord, Memory.read_writeWord]

/-- A word written through the routing of R68 is read back, if either source answers. -/
theorem ramRead16_ramWrite16 {s : State} {e : Word} (even : e.toNat % 2 = 0)
    (ram : (0x2000 ≤ e.toNat ∧ e.toNat < 0x4000) ∨ 0xA000 ≤ e.toNat)
    (on : s.decoder.amsEn = true ∨ s.decoder.ram32kEn = true) (d : Word) : ramRead16 (ramWrite16 s e d) e = d := by
  rw [ramWrite16_eq s even]
  by_cases ams : s.decoder.amsEn = true
  · obtain ⟨x, phys⟩ := amsPhys_ram s.params s.ams ram
    have phys' : amsPhys s.params s.ams (e + 1) = some (x + 1) := by
      rw [amsPhys_succ _ _ even, phys]
      rfl
    rw [if_pos ams, phys, ramRead16_eq _ even, if_pos ams]
    simp only [amsGet, amsPhys_mem, phys, phys']
    exact Memory.readWord_writeWord s.ams.mem x d
  · have ram32k := on.resolve_left ams
    rw [if_neg ams, if_pos ram32k, ramRead16_eq _ even, if_neg ams, if_pos ram32k]
    exact Memory.readWord_writeWord s.decoder.ram e.toNat d

/-- Every mirror of a scratchpad cell names it (20_memory.md R69). -/
theorem padWord_setPadWord {a b : Word} (same : padAddr a = padAddr b) (m : Decoder) (d : Word) :
    padWord (setPadWord m a d) b = d := by
  rw [padWord, setPadWord, same]
  exact Memory.readWord_writeWord m.ram _ d

/-- Settles O59: the read goes where the write went, since neither changes the routing. -/
theorem readAfterWrite : Obligations.ReadAfterWrite := by
  intro s a b d
  refine ⟨fun wf on => ?_, fun wf on => ?_, fun wfa wfb cell => ?_⟩
  · obtain ⟨even, lo, hi⟩ := evenIn_iff.1 wf
    have back := ramRead16_ramWrite16 (s := s) even (Or.inl ⟨lo, by omega⟩) on d
    refine ⟨_, rfl, congrArg Value.word ?_⟩
    rwa [evenAddr_of_even even]
  · obtain ⟨even, lo, hi⟩ := evenIn_iff.1 wf
    have back := ramRead16_ramWrite16 (s := s) even (Or.inr lo) on d
    refine ⟨_, rfl, congrArg Value.word ?_⟩
    rwa [evenAddr_of_even even]
  · obtain ⟨-, loa, hia⟩ := evenIn_iff.1 wfa
    obtain ⟨-, lob, hib⟩ := evenIn_iff.1 wfb
    have same : padAddr a = padAddr b := by
      rw [BitVec.toNat_eq, padAddr_toNat loa (by omega), padAddr_toNat lob (by omega), cell]
    exact ⟨_, rfl, congrArg Value.word (padWord_setPadWord same s.decoder d)⟩

end Sys2Proof.Machine
end

section
/-! Sequences of GROM transactions (41_grom.md section 4.12, 70_reset_and_hazards.md section 8.2): setting the address
points the sequencer at a byte, a data read moves it to the next one, and a data write stores at the byte pointed at. -/

namespace Sys2Proof.Machine

/-! ### Instructions one after another -/

theorem execAll_cons {i : Instr} {is : List Instr} {s t : State} (run : exec i s = .next t) :
    execAll (i :: is) s = execAll is t := by
  rw [execAll, run]

theorem execAll_append {is js : List Instr} {s t : State} (run : execAll is s = .next t) :
    execAll (is ++ js) s = execAll js t := by
  induction is generalizing s with
  | nil =>
    obtain rfl := Host.Outcome.next.inj run
    rfl
  | cons i is ih =>
    obtain ⟨u, first⟩ := exec_completes i s
    rw [execAll_cons first] at run
    rw [List.cons_append, execAll_cons first, ih run]

/-! ### The sequencer pointed at an address -/

/-- The sequencer once its address is set: every latch holds its base's byte there, and the cursor is one further. -/
def pointed (g : GromSeq) (a : Word) : GromSeq := ginc (grefill { g with gaddr := a })

section
variable (g : GromSeq) (a : Word)

theorem pointed_gaddr : (pointed g a).gaddr = a + 1 := rfl

theorem pointed_gphase : (pointed g a).gphase = g.gphase := rfl

theorem pointed_grom : (pointed g a).grom = g.grom := rfl

theorem pointed_gpop : (pointed g a).gpop = g.gpop := rfl

theorem at16_pointed_gpref (b : BitVec 4) :
    at16 (pointed g a).gpref b = Memory.read (at16 g.grom b) a.toNat :=
  at16_grefill_gpref { g with gaddr := a } b

/-- The base of a port is decided by the populated flags alone. -/
theorem gbase_congr {g g' : GromSeq} (same : g.gpop = g'.gpop) (e : Word) : gbase g e = gbase g' e := by
  rw [gbase, gbase, gmulti, gmulti, same]

/-- The refill and advance of a data read (R163). -/
theorem ginc_grefill_pointed : ginc (grefill (pointed g a)) = pointed g (a + 1) := by
  rw [pointed, pointed, ginc_grefill, ginc_grefill, ginc_grefill]
  rfl

/-- Setting another address forgets the one before. -/
theorem pointed_pointed (b : Word) : pointed (pointed g a) b = pointed g b := by
  simp only [pointed, ginc_grefill]
  rfl

/-- A data write stores at the byte pointed at, and points at the next (R167). -/
theorem gromDataWrite_pointed (e d : Word) :
    gromDataWrite true (pointed g a) e d = pointed (gromStore g (gbase g e) a (hi8 d)) (a + 1) := by
  have cursor : (pointed g a).gaddr - 1 = a := by rw [pointed_gaddr, BitVec.add_sub_cancel]
  rw [gromDataWrite, if_pos rfl, cursor, gbase_congr (pointed_gpop g a), laneByte, pointed, pointed, ginc_grefill,
    ginc_grefill, ginc_grefill]
  rfl

/-- The two address writes of GSETADDR, from the phase that expects the first. -/
theorem gromAddrWrite_pair {g : GromSeq} (phase : g.gphase = .two) :
    gromAddrWrite (gromAddrWrite g (be16 (hi8 a) 0)) (be16 (lo8 a) 0) = pointed g a := by
  have first : gromAddrWrite g (be16 (hi8 a) 0) =
      { g with gaddr := be16 (lo8 g.gaddr) (hi8 a), gphase := .one } := by
    rw [gromAddrWrite, phase, laneByte, hi8_be16]
  rw [first, gromAddrWrite, laneByte, hi8_be16, lo8_be16, be16_hi8_lo8, ← phase]
  rfl

end

/-! ### GSETADDR and data reads -/

section
variable {s : State} (a : Word)

theorem execAll_gsetaddr (phase : s.gsq.gphase = .two) :
    ∃ r, execAll (gsetaddr a) s = .next { s with gsq := pointed s.gsq a, reply := r } := by
  refine ⟨⟨.nothing, waitCycles s.params true 0x9C02, [], none⟩, ?_⟩
  rw [gsetaddr, execAll_cons (exec_mwrGrAddr s _ _), execAll_cons (exec_mwrGrAddr _ _ _), ← gromAddrWrite_pair a phase]
  rfl

/-- A data read answers the byte pointed at, and points at the next. -/
theorem exec_mrdGrData_pointed (p : Word) (g : GromSeq) (r : Reply) :
    exec (.mrdGrData p) { s with gsq := pointed g a, reply := r } =
      .next { s with
        gsq := pointed g (a + 1)
        reply := ⟨.word (be16 (Memory.read (at16 g.grom (gbase g (evenAddr p))) a.toNat) 0), s.params.waitDefault, [],
          none⟩ } := by
  rw [exec_mrdGrData, execMrdGrData, ginc_grefill_pointed, gbase_congr (pointed_gpop g a), at16_pointed_gpref]
  rfl

theorem execAll_reads_pointed (ports : List Word) (g : GromSeq) (r : Reply) :
    ∃ r', execAll (ports.map .mrdGrData) { s with gsq := pointed g a, reply := r } =
      .next { s with gsq := pointed g (a + BitVec.ofNat 16 ports.length), reply := r' } := by
  induction ports generalizing a r with
  | nil => exact ⟨r, by rw [List.length_nil, BitVec.add_zero]; rfl⟩
  | cons p ports ih =>
    obtain ⟨r', rest⟩ := ih (a + 1) _
    have count : a + 1 + BitVec.ofNat 16 ports.length = a + BitVec.ofNat 16 (p :: ports).length := by
      rw [List.length_cons, BitVec.ofNat_add, BitVec.add_assoc, BitVec.add_comm 1]
      rfl
    exact ⟨r', by rw [List.map_cons, execAll_cons (exec_mrdGrData_pointed a p g r), rest, count]⟩

end

/-- Settles O55: GSETADDR points the sequencer at a, and each read at the next byte. -/
theorem gromAddressThenReads : Obligations.GromAddressThenReads := by
  rintro s a ports phase - k rfl
  obtain ⟨r, setAddr⟩ := execAll_gsetaddr a phase
  obtain ⟨r', reads⟩ := execAll_reads_pointed (s := s) a ports s.gsq r
  generalize a + BitVec.ofNat 16 ports.length = x at reads
  have state : { s with gsq := pointed s.gsq x, reply := r' } =
      { s with gsq.gaddr := x + 1, gsq.gphase := .two, gsq.gpref := (pointed s.gsq x).gpref, reply := r' } := by
    rw [← phase]
    rfl
  refine ⟨(pointed s.gsq x).gpref, r', ?_, at16_pointed_gpref s.gsq x, fun p _ => ?_⟩
  · rw [execAll_append setAddr, reads, state]
  · rw [← state, exec_mrdGrData_pointed]
    refine ⟨_, rfl, ?_, ?_⟩
    · show x + 1 + 1 = x + 2
      rw [BitVec.add_assoc]
      rfl
    · rw [← gbase_eq]

/-- Ports of one base field have one base (R160). -/
theorem gbase_of_field (g : GromSeq) {w p : Word} (field : w.toNat / 4 % 16 = p.toNat / 4 % 16) :
    gbase g (evenAddr w) = gbase g (evenAddr p) := by
  have same : gromBaseField (evenAddr w) = gromBaseField (evenAddr p) := by
    rw [BitVec.toNat_eq, gromBaseField_toNat, gromBaseField_toNat, field]
  rw [gbase, gbase, same]

/-- Settles O56: the write stores at the byte pointed at, and the second GSETADDR points there again. -/
theorem gramWriteThenRead : Obligations.GramWriteThenRead := by
  intro s a w p d phase gram _ _ field
  obtain ⟨r1, set1⟩ := execAll_gsetaddr a phase
  have stored (x : Word) : exec (.mwrGrData w d) { s with gsq := pointed s.gsq x, reply := r1 } =
      .next { s with
        gsq := pointed (gromStore s.gsq (gbase s.gsq (evenAddr w)) x (hi8 d)) (x + 1)
        reply := ⟨.nothing, waitCycles s.params true w, [], none⟩ } := by
    rw [exec_mwrGrData, execMwrGrData, gram, gromDataWrite_pointed]
    rfl
  obtain ⟨r2, set2⟩ := execAll_gsetaddr (s := { s with
    gsq := pointed (gromStore s.gsq (gbase s.gsq (evenAddr w)) a (hi8 d)) (a + 1)
    reply := ⟨.nothing, waitCycles s.params true w, [], none⟩ }) a phase
  rw [pointed_pointed] at set2
  have read := exec_mrdGrData_pointed (s := s) a p (gromStore s.gsq (gbase s.gsq (evenAddr w)) a (hi8 d)) r2
  rw [gbase_congr (gromStore_gpop ..), ← gbase_of_field s.gsq field, read_gromStore, if_pos ⟨rfl, rfl⟩] at read
  have next : a + 1 + 1 = a + 2 := by
    rw [BitVec.add_assoc]
    rfl
  rw [List.append_assoc, List.append_assoc, execAll_append set1, List.singleton_append, execAll_cons (stored a),
    execAll_append set2, execAll_cons read]
  exact ⟨_, rfl, rfl, next⟩

end Sys2Proof.Machine
end

section
/-! Sequences on the interval timer (30_encoding.md section 3.5, 42_cru.md sections 5.3 to 5.5): the period of the
decrementer, and the sixteen writes of TIMERSET. -/

namespace Sys2Proof.Machine

/-! ### The period -/

/-- Counting one further in a cycle of n. -/
theorem succ_mod_eq {n : Nat} (pos : 0 < n) (k : Nat) : (k + 1) % n = if k % n + 1 = n then 0 else k % n + 1 := by
  have below := Nat.mod_lt k pos
  rw [← Nat.mod_add_mod]
  split_ifs with wrap
  · rw [wrap, Nat.mod_self]
  · exact Nat.mod_eq_of_lt (by omega)

theorem clk_ne_zero {c : CruUnit} (pos : 0 < c.clk.toNat) : c.clk ≠ 0 := by
  intro zero
  rw [zero] at pos
  exact absurd pos (by decide)

/-- A tick of 1 at position k of the countdown: the next position, and TINT where the count is complete. -/
theorem timerTick_one {c : CruUnit} {n k : Nat} (clk : n = c.clk.toNat) (pos : 0 < n)
    (dec : c.dec = (n : Int) - (k % n : Nat)) :
    (timerTick c 1).clk = c.clk ∧ (timerTick c 1).dec = (n : Int) - ((k + 1) % n : Nat) ∧
      (timerTick c 1).tint = (c.tint || decide (n ∣ k + 1)) := by
  have below := Nat.mod_lt k pos
  have next := succ_mod_eq pos k
  have complete : n ∣ k + 1 ↔ k % n + 1 = n := by
    rw [Nat.dvd_iff_mod_eq_zero, next]
    by_cases wrap : k % n + 1 = n <;> simp [wrap]
  rw [timerTick_eq, if_neg (clk_ne_zero (clk ▸ pos)), dec, next]
  by_cases wrap : k % n + 1 = n
  · rw [if_pos wrap, if_pos (by omega)]
    exact ⟨rfl, by simp [clk], by simp [complete, wrap]⟩
  · rw [if_neg wrap, if_neg (by omega)]
    exact ⟨rfl, by push_cast; omega, by simp [complete, wrap]⟩

/-- A tick longer than what is left raises TINT and reloads the clock. -/
theorem timerTick_passed {c : CruUnit} {d : Nat} (pos : 0 < c.clk.toNat) (long : c.dec < d) :
    (timerTick c d).tint = true ∧ (timerTick c d).dec = c.clk.toNat := by
  rw [timerTick_eq, if_neg (clk_ne_zero pos), if_pos (by omega)]
  exact ⟨rfl, rfl⟩

/-- The countdown after k ticks of 1 from its start. -/
theorem execAll_ticks {s : State} {n : Nat} (clk : n = s.cru.clk.toNat) (pos : 0 < n) (dec : s.cru.dec = n) (k : Nat) :
    ∃ u, execAll (List.replicate k (.tick 1)) s = .next u ∧ u.cru.clk = s.cru.clk ∧
      u.cru.dec = (n : Int) - (k % n : Nat) ∧ u.cru.tint = (s.cru.tint || decide (n ≤ k)) := by
  induction k with
  | zero => exact ⟨s, rfl, rfl, by simp [dec], by simp [Nat.not_le.2 pos]⟩
  | succ k ih =>
    obtain ⟨u, run, sameClk, position, flag⟩ := ih
    obtain ⟨clk', position', flag'⟩ := timerTick_one (by rw [sameClk, clk]) pos position
    have complete : n ≤ k + 1 ↔ n ≤ k ∨ n ∣ k + 1 := by
      constructor
      · intro le
        obtain lt | rfl := Nat.le_succ_iff.1 le
        · exact Or.inl lt
        · exact Or.inr (dvd_refl _)
      · rintro (le | dvd)
        · omega
        · exact Nat.le_of_dvd (Nat.succ_pos k) dvd
    rw [List.replicate_succ', execAll_append run, execAll_cons (exec_tick u 1)]
    exact ⟨_, rfl, clk'.trans sameClk, position', flag'.trans (by simp [flag, complete, Bool.or_assoc])⟩

/-- Settles O57: the ticks count in a cycle of n, and a longer tick reloads the whole of n. -/
theorem timerPeriod : Obligations.TimerPeriod := by
  intro s n k clk pos dec
  obtain ⟨u, run, sameClk, position, flag⟩ := execAll_ticks clk pos dec k
  have clk' : n = u.cru.clk.toNat := by rw [sameClk, clk]
  refine ⟨u, run, sameClk, position, flag, ⟨_, exec_tick _ 1, ?_⟩, fun d long => ⟨_, exec_tick u d, ?_⟩⟩
  · obtain ⟨-, -, raised⟩ := timerTick_one (c := { u.cru with tint := false }) clk' pos position
    exact raised ▸ by simp
  · obtain ⟨raised, reloaded⟩ := timerTick_passed (clk' ▸ pos) long
    exact ⟨raised, by rw [clk']; exact reloaded⟩

/-! ### TIMERSET -/

/-- The first m of TIMERSET's clock writes leave the first m bits of n, and the countdown at the clock they make. -/
theorem execAll_clockWrites (s : State) (n : BitVec 14) {m : Nat} (hm : m ≤ 14) :
    ∃ c d r,
      execAll ((List.range m).map fun k => .cwrTClk (BitVec.ofNat 12 (k + 1)) (n.getLsbD k)) s =
        .next { s with cru.clk := c, cru.dec := d, reply := r } ∧
      (∀ j, j < 14 → c.getLsbD j = if j < m then n.getLsbD j else s.cru.clk.getLsbD j) ∧
      (0 < m → c ≠ 0 → d = c.toNat) := by
  induction m with
  | zero => exact ⟨s.cru.clk, s.cru.dec, s.reply, rfl, fun _ _ => by simp, fun h => absurd h (by decide)⟩
  | succ m ih =>
    obtain ⟨c, d, r, run, bits, -⟩ := ih (by omega)
    have index : (BitVec.ofNat 12 (m + 1)).toNat - 1 = m := by
      rw [BitVec.toNat_ofNat]
      omega
    refine ⟨putBit c m (n.getLsbD m), if putBit c m (n.getLsbD m) = 0 then d else (putBit c m (n.getLsbD m)).toNat,
      ⟨.nothing, 0, [], none⟩, ?_, fun j hj => ?_, fun _ nonzero => if_neg nonzero⟩
    · rw [List.range_succ, List.map_append, execAll_append run, List.map_singleton, execAll_cons (exec_cwrTClk _ _ _),
        clockWrite_eq, index]
      rfl
    · rw [putBit_getLsbD c _ hj, bits j hj]
      split_ifs with same low low
      · rw [same]
      · omega
      · rfl
      · omega
      · omega
      · rfl

/-- Settles O58: fourteen clock writes between entering timer mode and leaving it by a write of bit 16. -/
theorem timerSetLoadsClock : Obligations.TimerSetLoadsClock := by
  intro s n
  obtain ⟨c, d, r, run, bits, started⟩ := execAll_clockWrites
    ((s.setCru { s.cru with tmode := true }).untimed .nothing []) n (m := 14) (by decide)
  obtain rfl : c = n := BitVec.eq_of_getLsbD_eq fun j hj => by rw [bits j hj, if_pos hj]
  refine ⟨CruLines.write s.cru.bits 16 false, d, ⟨.nothing, 0, [], none⟩, ?_, started (by decide),
    CruLines.read_write s.cru.bits 16 false⟩
  rw [timerset, List.append_assoc, List.singleton_append, execAll_cons (exec_cwrMode s true), execAll_append run,
    execAll_cons (exec_cwrTExit _ 16 false)]
  rfl

end Sys2Proof.Machine
end

section
/-! Debug reads are invisible (43_host.md section 6.4): no instruction reads the last reply, and a debug read changes
nothing else. -/

namespace Sys2Proof.Machine

/-! ### No instruction reads the last reply -/

section
variable (s : State) (r : Reply)

theorem setRamByte_reply (a : Word) (b : Byte) :
    setRamByte { s with reply := r } a b = { setRamByte s a b with reply := r } := by
  unfold setRamByte
  split_ifs <;> rfl

theorem ramWrite16_reply (e d : Word) :
    ramWrite16 { s with reply := r } e d = { ramWrite16 s e d with reply := r } := by
  rw [ramWrite16, ramWrite16, setRamByte_reply s r e (hi8 d)]
  exact setRamByte_reply (setRamByte s e (hi8 d)) r (e + 1) (lo8 d)

theorem periphWrite_reply (e d : Word) :
    periphWrite { s with reply := r } e d = { periphWrite s e d with reply := r } := by
  unfold periphWrite amsOverlay
  split_ifs <;> rfl

theorem normalWrite_reply (bit : CruBit) (v : Bool) :
    normalWrite bit v { s with reply := r } = normalWrite bit v s := by
  unfold normalWrite
  split_ifs <;> rfl

theorem loadRamByte_reply (t : Word) (b : Byte) :
    loadRamByte t b { s with reply := r } = { loadRamByte t b s with reply := r } := by
  unfold loadRamByte
  cases region t with
  | loram | hiram => exact setRamByte_reply s r t b
  | cart =>
    dsimp only
    split_ifs <;> rfl
  | _ => rfl

theorem loadRamBytes_reply (bytes : List Byte) (t : Word) :
    loadRamBytes t bytes { s with reply := r } = { loadRamBytes t bytes s with reply := r } := by
  induction bytes generalizing t s with
  | nil => rfl
  | cons b bytes ih => rw [loadRamBytes, loadRamBytes, loadRamByte_reply, ih]

/-- Every instruction does the same whatever the last reply was. -/
theorem exec_reply (i : Instr) : exec i { s with reply := r } = exec i s := by
  cases i with
  | mwrLoram a d => rw [exec_mwrLoram, exec_mwrLoram, execMwrLoram, execMwrLoram, ramWrite16_reply]; rfl
  | mwrHiram a d => rw [exec_mwrHiram, exec_mwrHiram, execMwrHiram, execMwrHiram, ramWrite16_reply]; rfl
  | mwrPeriph a d => rw [exec_mwrPeriph, exec_mwrPeriph, execMwrPeriph, execMwrPeriph, periphWrite_reply]; rfl
  | cwrTExit bit v => exact congrArg Host.Outcome.next (normalWrite_reply (s.setCru { s.cru with tmode := false }) r bit v)
  | loadRam a bytes =>
    rw [exec_loadRam, exec_loadRam, execLoadRam, execLoadRam, loadRamBytes_reply]
    rfl
  | _ => rfl

end

/-! ### Sequences with their replies -/

theorem exec_debug {i : Instr} (debug : isDebug i = true) (s : State) : ∃ r, exec i s = .next { s with reply := r } := by
  cases i with
  | getState => exact ⟨_, exec_getState s⟩
  | dbgRdb a => exact ⟨_, exec_dbgRdb s a⟩
  | dbgRdw a => exact ⟨_, exec_dbgRdw s a⟩
  | status => exact ⟨_, exec_status s⟩
  | _ => cases debug

theorem trace_cons {i : Instr} {is : List Instr} {s t u : State} {rs : List (Instr × Reply)} (first : exec i s = .next t)
    (rest : trace is t = .next (rs, u)) : trace (i :: is) s = .next ((i, t.reply) :: rs, u) := by
  rw [trace, first]
  dsimp only
  rw [rest]

/-- A sequence shows the same from any last reply, and ends in the same state but for the last reply. -/
theorem trace_of_trace_reply {is : List Instr} {s u : State} {r : Reply} {rs : List (Instr × Reply)}
    (run : trace is { s with reply := r } = .next (rs, u)) : ∃ r', trace is s = .next (rs, { u with reply := r' }) := by
  cases is with
  | nil =>
    obtain ⟨rfl, rfl⟩ := Prod.mk.inj (Host.Outcome.next.inj run)
    exact ⟨s.reply, rfl⟩
  | cons i is =>
    rw [trace, exec_reply] at run
    exact ⟨u.reply, run⟩

/-- Settles O54: taking a debug read out changes the last reply alone, which no later instruction reads. -/
theorem debugReadsAreInvisible : Obligations.DebugReadsAreInvisible := by
  intro is
  induction is with
  | nil => exact fun s => ⟨[], s, s.reply, rfl, rfl⟩
  | cons i is ih =>
    intro s
    by_cases debug : isDebug i = true
    · obtain ⟨r₁, first⟩ := exec_debug debug s
      obtain ⟨rs, u, r, whole, without⟩ := ih { s with reply := r₁ }
      obtain ⟨r', without'⟩ := trace_of_trace_reply without
      exact ⟨_, u, r', trace_cons first whole, by simpa [debug] using without'⟩
    · obtain ⟨t, first⟩ := exec_completes i s
      obtain ⟨rs, u, r, whole, without⟩ := ih t
      exact ⟨_, u, r, trace_cons first whole, by simpa [debug] using trace_cons first without⟩

end Sys2Proof.Machine
end
